-- ==== Sys2Proof/Word.lean ====
section
/-!
DEFINITION. The widths of the spec's quantities (00_scope.md R9, 20_memory.md R57): bytes, 16-bit
register words and 32-bit accumulator values. All are unsigned.
-/

namespace Sys2Proof

/-- 8 bits (R9). -/
abbrev Byte := BitVec 8

/-- 16 bits: a register address, a register value, a count, a checksum (R9, R10). -/
abbrev Word := BitVec 16

/-- 32 bits: a quantity held in two consecutive registers (R43). -/
abbrev DWord := BitVec 32

end Sys2Proof
end

