-- ==== Sys2Proof/Config.lean ====
section
/-!
DEFINITION. The constants of the protocol (00_scope.md R5, R6) and the free values: what the spec
leaves open, as constants without a body, so that nothing can be proved about any one of their values.
-/

namespace Sys2Proof

/-- The byte memories the model holds: the operand buffer (10_state.md R11), the request and
response scratch buffers (R30, R31) and the register cache (R32). -/
inductive Space
  | data
  | txbuf
  | rxbuf
  | cache
  deriving DecidableEq, Repr

namespace Config

/-- `CRC_POLY` (R5). -/
def crcPoly : Word := 0xA001#16

/-- `CRC_INIT` (R5). -/
def crcInit : Word := 0xFFFF#16

/-- `FC_READ` (R5, R69). -/
def fcRead : Byte := 0x03#8

/-- `FC_WRITE1` (R5, R69). -/
def fcWrite1 : Byte := 0x06#8

/-- `FC_WRITEN` (R5, R69). -/
def fcWriteN : Byte := 0x10#8

/-- `EXC_BIT`, bit 7 of a response's function-code byte (R5; 30_encoding.md R67: "request function code | 0x80"). -/
def excBit : Byte := 0x80#8

/-- `MAX_READ_COUNT` (R5). -/
def maxReadCount : Nat := 30

/-- `MAX_WRITE_COUNT` (R5). -/
def maxWriteCount : Nat := 14

/-- `CACHE_REGS` (R5). -/
def cacheRegs : Nat := 31

/-- `CACHE_BYTES`, two bytes a register (R5). -/
def cacheBytes : Nat := 62

/-- `TXBUF_BYTES`, the longest request (R6). -/
def txbufBytes : Nat := 37

/-- `RXBUF_BYTES`, the longest response (R6). -/
def rxbufBytes : Nat := 65

/-- `REFRESH_START` (R5). -/
def refreshStart : Word := 0#16

/-- `REFRESH_COUNT` (R5). -/
def refreshCount : Word := 30#16

/-- `PRESET_BASE` (R5). -/
def presetBase : Word := 0x0050#16

/-- `PRESET_STRIDE` (R5). -/
def presetStride : Word := 16#16

/-- `PRESET_WORDS` (R5). -/
def presetWords : Word := 14#16

/-- The byte count of a preset block, two bytes a word (R127). -/
def presetBytes : Byte := 28#8

/-- `PRESET_SLOTS` (R5). -/
def presetSlots : Nat := 10

/-- `PRESET_SELECT_REG`, the device's preset-slot selector (R5). No command of its own uses it: the host writes it by
`WRREG 0x001D, n` (91 N17). -/
def presetSelectReg : Word := 0x001D#16

/-- `VSET_REG` (R5). -/
def vsetReg : Word := 0x0000#16

/-- `DEVADDR_DEFAULT` (R5). -/
def devaddrDefault : Byte := 1#8

/-- How many bytes each memory has (R11, R30, R31, R32; R6). An address at or above it does not exist. -/
def spaceSize : Space → Nat
  | .data => 28
  | .txbuf => txbufBytes
  | .rxbuf => rxbufBytes
  | .cache => cacheBytes

/-- FREE VALUE. The byte at an address nothing has written since the given reset event: the spec calls
it unspecified (R11, R30, R31, R32, 93 U6, U7, U10, U11). DESIGN CHOICE, log entry 4. -/
opaque unwrittenByte (epoch : Nat) (sp : Space) (addr : Nat) : Byte

/-- FREE VALUE. The count `Transport.write` returns: any natural number (R162, 92 D10). Log entry 2. -/
opaque freeWriteCount (draw : Nat) : Nat

/-- FREE VALUE. The bytes that arrive while `Transport.readExactly` waits: any sequence (R163, 92 D10,
D33). Log entry 2. -/
opaque freeArrivals (draw : Nat) : List Byte

/-- FREE VALUE. What the host reads of RXBUF outside the result window: unspecified (R31, 92 D19). Log
entry 10. -/
opaque hiddenByte (draw : Nat) (addr : Nat) : Byte

end Config

end Sys2Proof
end

