-- ==== Sys2Proof/Machine/Bytes.lean ====
section
/-!
DEFINITION. Byte order (00_scope.md R9, 20_memory.md R41 to R44): splitting words into bytes and putting them
together again.
-/

namespace Sys2Proof

/-- `hi8(w) = w[15:8]` (R9). -/
def hi8 (w : Word) : Byte := w.extractLsb' 8 8

/-- `lo8(w) = w[7:0]` (R9). -/
def lo8 (w : Word) : Byte := w.extractLsb' 0 8

/-- `be16(a, b)`: a 16-bit word from two bytes, first byte most significant (R9). -/
def be16 (a b : Byte) : Word := (a.setWidth 16 <<< 8) ||| b.setWidth 16

/-- A 16-bit word as it goes on the wire, most significant byte first (R41). -/
def wordBytes (w : Word) : List Byte := [hi8 w, lo8 w]

/-- The high word of a 32-bit value (R43). -/
def hi16 (v : DWord) : Word := v.extractLsb' 16 16

/-- The low word of a 32-bit value (R43). -/
def lo16 (v : DWord) : Word := v.extractLsb' 0 16

/-- `(high << 16) | low` (R43). -/
def dword (high low : Word) : DWord := (high.setWidth 32 <<< 16) ||| low.setWidth 32

/-- The flag rule: a nonzero low byte is true (R44, R124). -/
def flagOf (low : Byte) : Bool := low != 0#8

end Sys2Proof
end

