-- ==== Sys2Proof/Machine/Checksum.lean ====
section
/-!
DEFINITION. The Checksum Engine (40_checksum.md R80 to R83).
-/

namespace Sys2Proof

/-- One of the eight iterations for a byte: the test is made on the value before the shift (R80). -/
def crcShift (c : Word) : Word :=
  if c.getLsbD 0 then (c >>> 1) ^^^ Config.crcPoly else c >>> 1

/-- `n` iterations in a row. -/
def crcShifts : Nat → Word → Word
  | 0, c => c
  | n + 1, c => crcShifts n (crcShift c)

/-- One byte enters the low 8 bits of the running value, then eight iterations (R80). -/
def crcByte (c : Word) (b : Byte) : Word := crcShifts 8 (c ^^^ b.setWidth 16)

/-- The running value after the bytes of `bs`, started from `c` (R80). -/
def crcRun : Word → List Byte → Word
  | c, [] => c
  | c, b :: bs => crcRun (crcByte c b) bs

/-- `CRC16(s)` (R80). -/
def crc16 (bs : List Byte) : Word := crcRun Config.crcInit bs

/-- The checksum of `h` as two bytes, low byte first (R42). -/
def crcBytes (h : List Byte) : List Byte := [lo8 (crc16 h), hi8 (crc16 h)]

/-- Closing a frame (R82). -/
def appendCrc (h : List Byte) : List Byte := h ++ crcBytes h

/-- The check of step 6 on a received frame: the checksum of all bytes but the last two is these two, low
byte first (R83). -/
def crcMatches (r : List Byte) : Bool := r.drop (r.length - 2) == crcBytes (r.take (r.length - 2))

end Sys2Proof
end

