-- ==== Sys2Proof/Syntax.lean ====
section
/-!
DEFINITION. The instruction set as data: one constructor of `Instr` per row of spec/opcode_table.json, and
the operand types it needs (the preset record, its field names).
-/

namespace Sys2Proof

/-- The preset record: twelve fields (10_state.md R12). -/
structure PresetRecord where
  vset : Word
  iset : Word
  lvp : Word
  ovp : Word
  ocp : Word
  opp : Word
  oth : Word
  otm : Word
  oac : DWord
  oae : DWord
  otp : Word
  init : Bool
  deriving DecidableEq, Repr

/-- The name of one field of the preset record (R12), the operand of SETPR (44_config_ops.md R144). -/
inductive PrField
  | vset | iset | lvp | ovp | ocp | opp | oth | otm | oac | oae | otp | init
  deriving DecidableEq, Repr

/-- The commands that run a transaction: the values of `CUR.OP` (R16). -/
inductive TxOp
  | rdreg | wrreg | wrmul | refresh | presetRd | presetWr | setVolt
  deriving DecidableEq, Repr

/-- The transaction kinds: the values of `CUR.KIND` (R16). -/
inductive Kind
  | read | write1 | writeN
  deriving DecidableEq, Repr

/-- The instructions: a host command with its operands (30_encoding.md R73) or a frame the device sends
(R64 to R67). Operand widths are those of the registers or frame fields they fill (R10, 92 D3). A getter's
index has no width in the spec, so it is a plain number and is never truncated before it is checked (91 N5). -/
inductive Instr
  -- transactions: the request frames REQ-R, REQ-W1, REQ-WN
  | rdreg (start count : Word)
  | wrreg (reg value : Word)
  | wrmul (start count : Word) (bytecount : Byte) (data : List Byte)
  -- response frames; `func` is bits 6:0 of the function-code byte, `crc` the checksum field as received
  | rspR (addr : Byte) (func : BitVec 7) (byteCount : Byte) (data : List Byte) (crc : Word)
  | rspW1 (addr : Byte) (func : BitVec 7) (reg value crc : Word)
  | rspWn (addr : Byte) (func : BitVec 7) (start count crc : Word)
  -- `tail`: bytes that follow the exception frame, if any (42_transaction.md R105)
  | rspX (addr : Byte) (func : BitVec 7) (excCode : Byte) (crc : Word) (tail : List Byte)
  -- composite transactions
  | refresh
  | presetRd (slot : Byte)
  | presetWr (slot : Byte)
  | setVolt (value : Word)
  -- pure functions and getters
  | crc16 (bytes : List Byte)
  | get16 (i : Nat)
  | get32 (i : Nat)
  | getflag (i : Nat)
  | getSetVolt
  | presetAddr (slot : Byte)
  | presetDec (bytes : List Byte)
  | presetEnc (record : PresetRecord)
  -- configuration and operand loads
  | setDevaddr (a : Byte)
  | setTRead (ms : Word)
  | setTWrite (ms : Word)
  | setTSettle (ms : Word)
  | setx (i : Nat) (v : Word)
  | setdata (k : Nat) (b : Byte)
  | setpr (field : PrField) (v : DWord)
  -- status reads
  | getstatus
  | getresult
  | getpr
  deriving DecidableEq, Repr

end Sys2Proof
end

