-- ==== Sys2Proof/Machine/Codec.lean ====
section
/-!
DEFINITION. The preset part of the Value Codec (43_cache_codec.md R126 to R129): slot addresses, and the
fourteen words of a preset block.
-/

namespace Sys2Proof

/-- `PRESET_ADDR(slot) = 0x0050 + 16 × slot` (R126, R49). -/
def presetAddr (slot : Byte) : Word := Config.presetBase + Config.presetStride * slot.setWidth 16

/-- `w(k) = be16(b[2k], b[2k+1])` (R128). -/
def blockWord (b : List Byte) (k : Nat) : Word := be16 (b.getD (2 * k) 0#8) (b.getD (2 * k + 1) 0#8)

/-- `PRESET_DEC` on 28 bytes (R128). -/
def presetDec (b : List Byte) : PresetRecord where
  vset := blockWord b 0
  iset := blockWord b 1
  lvp := blockWord b 2
  ovp := blockWord b 3
  ocp := blockWord b 4
  opp := blockWord b 5
  oth := blockWord b 6
  otm := blockWord b 7
  oac := dword (blockWord b 9) (blockWord b 8)
  oae := dword (blockWord b 11) (blockWord b 10)
  otp := blockWord b 12
  init := flagOf (b.getD 27 0#8)

/-- `PRESET_ENC`: 28 bytes in the field order of R127 (R129). -/
def presetEnc (r : PresetRecord) : List Byte :=
  wordBytes r.vset ++ wordBytes r.iset ++ wordBytes r.lvp ++ wordBytes r.ovp
    ++ wordBytes r.ocp ++ wordBytes r.opp ++ wordBytes r.oth ++ wordBytes r.otm
    ++ wordBytes (lo16 r.oac) ++ wordBytes (hi16 r.oac)
    ++ wordBytes (lo16 r.oae) ++ wordBytes (hi16 r.oae)
    ++ wordBytes r.otp
    ++ [0x00#8, if r.init then 0x01#8 else 0x00#8]

/-- One field of the record set to `v` at the field's width (44_config_ops.md R144); a value wider than the
field is truncated, DESIGN CHOICE, log entry 12. -/
def PresetRecord.setField (r : PresetRecord) (f : PrField) (v : DWord) : PresetRecord :=
  match f with
  | .vset => { r with vset := v.setWidth 16 }
  | .iset => { r with iset := v.setWidth 16 }
  | .lvp => { r with lvp := v.setWidth 16 }
  | .ovp => { r with ovp := v.setWidth 16 }
  | .ocp => { r with ocp := v.setWidth 16 }
  | .opp => { r with opp := v.setWidth 16 }
  | .oth => { r with oth := v.setWidth 16 }
  | .otm => { r with otm := v.setWidth 16 }
  | .oac => { r with oac := v }
  | .oae => { r with oae := v }
  | .otp => { r with otp := v.setWidth 16 }
  | .init => { r with init := v.getLsbD 0 }

end Sys2Proof
end

