-- ==== Sys2Proof/Machine/State.lean ====
section
/-!
DEFINITION. The machine's state as plain data (10_state.md R10 to R36), its outcomes, and the state right after
reset (R36, 70_reset_and_hazards.md R171).
-/

namespace Sys2Proof.Machine

/-- A byte memory: (address, byte) pairs, addresses strictly rising. An address that is not listed holds no
byte anything has written (log entry 4). -/
abbrev Memory := List Host.Cell

/-- The canonical form: addresses strictly rising, all below `size`. -/
abbrev Memory.wf (size : Nat) (m : Memory) : Prop :=
  m.Pairwise (fun c d => c.1 < d.1) ∧ ∀ c ∈ m, c.1 < size

/-- The phases of the sequencer, the values of `SEQ` (R14). -/
inductive Phase
  | idle | check | build | timeout | send | settle | recv | exc | crc | deliver
  deriving DecidableEq, Repr

/-- The codes of `STATUS.ERR` (60_exceptions.md R151). -/
inductive ErrCode
  | ok
  | invalidArgument
  | transportUnavailable
  | transportWriteIncomplete
  | transportReadIncomplete
  | deviceException
  | checksumMismatch
  deriving DecidableEq, Repr

/-- `CUR`, the latched context of the running command (R16). -/
structure Context where
  op : TxOp
  kind : Kind
  txLen : Fin 38
  rxLen : Fin 66
  deriving DecidableEq, Repr

/-- One operation at the transport, as the trace shows it (42_transaction.md R113). -/
inductive TransportOp
  /-- `setReadTimeout(ms)` (60_exceptions.md R161). -/
  | setReadTimeout (ms : Word)
  /-- `write(frame) -> n` (R162). -/
  | write (frame : List Byte) (n : Nat)
  /-- The settle delay, at least `ms` milliseconds (42_transaction.md R103). -/
  | delay (ms : Word)
  /-- `readExactly(len) -> bytes` (R163). -/
  | readExactly (len : Nat) (bytes : List Byte)
  deriving DecidableEq, Repr

/-- The transport, the link and the device behind it, as the block sees them (60_exceptions.md R160): an oracle.
What it will answer is listed; where a list is empty the answer is a free value (log entry 2). -/
structure Link where
  /-- `TRANSPORT_PRESENT` (R26), an input. -/
  present : Bool
  /-- Bytes received and not yet handed over, in arrival order (R34 item 2). -/
  held : List Byte
  /-- The counts `write` will return, next first. -/
  writeCounts : List Nat
  /-- The bytes that arrive during each coming `readExactly`, next first. -/
  arrivals : List (List Byte)
  /-- Which free value comes next. -/
  draws : Nat
  /-- The operations performed so far, oldest first. -/
  trace : List TransportOp
  deriving DecidableEq, Repr

/-- Why a host command is turned away, changing nothing (42_transaction.md R96, 44_config_ops.md R144,
43_cache_codec.md R122). -/
inductive TurnedAway
  /-- A command is running. -/
  | busy
  /-- An index, slot or length outside the range its rule gives. -/
  | range
  deriving DecidableEq, Repr

/-- What the last host command returned (44_config_ops.md R145, 43_cache_codec.md R122 to R129). DESIGN CHOICE, log
entry 19: no reply reads back an operand register, DEVADDR or a delay, although R10, R20 to R23 and R27 call them readable
by the host, nor DATA, since no command of the closed list (R73) returns one. -/
inductive Reply
  | none
  /-- A command or register write was taken. -/
  | accepted
  | refused (why : TurnedAway)
  | word (v : Word)
  | dword (v : DWord)
  | flag (b : Bool)
  | bytes (bs : List Byte)
  | record (r : PresetRecord)
  /-- STATUS, EXC_CODE, RESULT_LEN (R27). -/
  | status (word : BitVec 6) (excCode : Byte) (resultLen : BitVec 7)
  deriving DecidableEq, Repr

/-- One turn of the world outside the sequencer (log entries 1, 6, 14). -/
inductive Turn
  /-- An instruction, with its operands, run to its end. -/
  | instr (i : Instr)
  /-- A transaction command issued bare, the operand registers as they stand (42_transaction.md R96). -/
  | issue (op : TxOp)
  /-- The host waits: the sequencer takes one step. -/
  | tick
  /-- The reset event (70_reset_and_hazards.md R170). -/
  | reset
  deriving DecidableEq, Repr

structure State where
  /-- `x[0]`, START (R10). -/
  x0 : Word
  /-- `x[1]`, COUNT (R10). -/
  x1 : Word
  /-- `x[2]`, VALUE (R10). -/
  x2 : Word
  /-- `x[3]`, BYTECNT (R10). -/
  x3 : Byte
  /-- `x[4]`, SLOT (R10). -/
  x4 : Byte
  /-- `DATA[0..27]` (R11). -/
  data : Memory
  /-- `PR` (R12). -/
  pr : PresetRecord
  /-- `SEQ` (R14); `STATUS.BUSY` is whether it is not IDLE (R17). -/
  seq : Phase
  /-- `CUR` (R16). -/
  cur : Context
  /-- `STATUS.ERR` (R18). -/
  err : ErrCode
  /-- `EXC_CODE` (R19). -/
  excCode : Byte
  /-- `CACHE_VALID` (R25). -/
  cacheValid : Bool
  /-- `DEVADDR` (R20). -/
  devaddr : Byte
  /-- `T_READ_MS` (R21). -/
  tReadMs : Word
  /-- `T_WRITE_MS` (R22). -/
  tWriteMs : Word
  /-- `T_SETTLE_MS` (R23). -/
  tSettleMs : Word
  /-- `RESULT_LEN` (R24). -/
  resultLen : Fin 62
  /-- `TXBUF[0..36]` (R30). -/
  txbuf : Memory
  /-- `RXBUF[0..64]` (R31). -/
  rxbuf : Memory
  /-- `CACHE[0..61]` (R32). -/
  cache : Memory
  /-- The transport and what is behind it (R26, R34). -/
  link : Link
  /-- The coming turns, next first (the model's own). -/
  port : List Turn
  /-- What the last host command returned (the model's own). -/
  reply : Reply
  /-- How many reset events there have been (the model's own). -/
  epoch : Nat
  deriving DecidableEq, Repr

/-- Reasons the machine stops with a fault: NONE. "No error is fatal" (60_exceptions.md R165), and every address a
rule uses lies inside its memory, so nothing raises a fault. -/
inductive Fault
  deriving DecidableEq, Repr

/-- Reasons an instruction has no meaning. -/
inductive Refusal
  /-- Raised by an arm of `exec` that has no meaning yet; no arm is left so. Safe: the run stops. -/
  | notModelled (mnemonic : String)
  deriving DecidableEq, Repr

/-- Every outcome of this machine. -/
abbrev Result := Host.Outcome State Fault Refusal

/-- All zero: the value the model names for the preset record at reset. DESIGN CHOICE, log entry 3. -/
def zeroRecord : PresetRecord where
  vset := 0
  iset := 0
  lvp := 0
  ovp := 0
  ocp := 0
  opp := 0
  oth := 0
  otm := 0
  oac := 0
  oae := 0
  otp := 0
  init := false

/-- The machine right after reset (R36). SEQ, ERR, EXC_CODE, DEVADDR, the three delays, RESULT_LEN and CACHE_VALID
have the spec's values; x, PR and CUR the model's (DESIGN CHOICE, log entry 3); the memories list nothing (log entry
4); the transport is present (log entry 5) and has answered nothing yet. -/
def State.reset : State where
  x0 := 0
  x1 := 0
  x2 := 0
  x3 := 0
  x4 := 0
  data := []
  pr := zeroRecord
  seq := .idle
  cur := ⟨.rdreg, .read, 0, 0⟩
  err := .ok
  excCode := 0
  cacheValid := false
  devaddr := Config.devaddrDefault
  tReadMs := 10
  tWriteMs := 40
  tSettleMs := 5
  resultLen := 0
  txbuf := []
  rxbuf := []
  cache := []
  link := ⟨true, [], [], [], 0, []⟩
  port := []
  reply := .none
  epoch := 0

end Sys2Proof.Machine
end

