-- ==== Sys2Proof/Machine/Ops.lean ====
section
/-!
DEFINITION. The named operations over the memories, the transport and the outcome of a command, among them
`raise`, the block's trap entry (60_exceptions.md R152).
-/

namespace Sys2Proof.Machine

/-! ### One memory -/

/-- The byte written at `a`, if any. -/
def Memory.read? : Memory → Nat → Option Byte
  | [], _ => none
  | (k, v) :: rest, a => if k = a then some v else Memory.read? rest a

/-- The memory with `v` at `a`, in canonical form. -/
def Memory.write : Memory → Nat → Byte → Memory
  | [], a, v => [(a, v)]
  | (k, w) :: rest, a, v =>
    if a < k then (a, v) :: (k, w) :: rest
    else if a = k then (a, v) :: rest
    else (k, w) :: Memory.write rest a v

/-- `MemWrite`: the bytes of `bs` from `a` on (00_scope.md R9). -/
def Memory.writeAll : Memory → Nat → List Byte → Memory
  | m, _, [] => m
  | m, a, b :: bs => Memory.writeAll (Memory.write m a b) (a + 1) bs

/-! ### The memories of a state -/

/-- The memory of a space. -/
def State.space (s : State) : Space → Memory
  | .data => s.data
  | .txbuf => s.txbuf
  | .rxbuf => s.rxbuf
  | .cache => s.cache

/-- The state with another memory for a space. -/
def State.withSpace (s : State) (sp : Space) (m : Memory) : State :=
  match sp with
  | .data => { s with data := m }
  | .txbuf => { s with txbuf := m }
  | .rxbuf => { s with rxbuf := m }
  | .cache => { s with cache := m }

/-- One byte of a memory; a byte nothing has written is a free value (log entry 4). -/
def State.byteAt (s : State) (sp : Space) (a : Nat) : Byte :=
  ((s.space sp).read? a).getD (Config.unwrittenByte s.epoch sp a)

/-- `MemRead(space, a, n)` (R9). -/
def State.bytesAt (s : State) (sp : Space) (a : Nat) : Nat → List Byte
  | 0 => []
  | n + 1 => s.byteAt sp a :: State.bytesAt s sp (a + 1) n

/-- `MemWrite(space, a, n, bs)` (R9). -/
def State.store (s : State) (sp : Space) (a : Nat) (bs : List Byte) : State :=
  s.withSpace sp ((s.space sp).writeAll a bs)

/-! ### The transport (60_exceptions.md R160 to R163) -/

/-- One more operation on the trace (42_transaction.md R113). -/
def Link.record (l : Link) (op : TransportOp) : Link := { l with trace := l.trace ++ [op] }

/-- `Transport.setReadTimeout(ms)`: returns nothing, cannot fail (R161). -/
def Link.setReadTimeout (l : Link) (ms : Word) : Link := l.record (.setReadTimeout ms)

/-- The settle delay, as the trace shows it (42_transaction.md R103, R113). -/
def Link.delay (l : Link) (ms : Word) : Link := l.record (.delay ms)

/-- The count the next `Transport.write` returns: any natural number (R162). -/
def Link.nextCount (l : Link) : Nat :=
  match l.writeCounts with
  | n :: _ => n
  | [] => Config.freeWriteCount l.draws

/-- `Transport.write(frame)`, after which the next count is another (R162). -/
def Link.write (l : Link) (frame : List Byte) : Link :=
  { l.record (.write frame l.nextCount) with writeCounts := l.writeCounts.tail, draws := l.draws + 1 }

/-- The bytes that arrive while the next `Transport.readExactly` waits (R163). -/
def Link.nextArrivals (l : Link) : List Byte :=
  match l.arrivals with
  | bs :: _ => bs
  | [] => Config.freeArrivals l.draws

/-- The arrivals are used up: the next wait sees others. -/
def Link.passArrivals (l : Link) : Link := { l with arrivals := l.arrivals.tail, draws := l.draws + 1 }

/-- `Transport.readExactly(len)` when `arrived` comes in before the timeout: the held bytes first, in arrival
order, at most `len` of all (R163). -/
def Link.received (l : Link) (len : Nat) (arrived : List Byte) : List Byte := (l.held ++ arrived).take len

/-- The link after that call: bytes beyond `len` are not consumed (R163, R34). -/
def Link.readExactly (l : Link) (len : Nat) (arrived : List Byte) : Link :=
  { l.record (.readExactly len (l.received len arrived)) with held := (l.held ++ arrived).drop len }

/-- Bytes that come in while the block is not waiting for them stay in the transport (10_state.md R34, 70 R180). -/
def Link.hold (l : Link) (bs : List Byte) : Link := { l with held := l.held ++ bs }

/-! ### The outcome of a command -/

/-- The six errors with what each carries (60_exceptions.md R150). -/
inductive Failure
  | invalidArgument
  | transportUnavailable
  | transportWriteIncomplete
  | transportReadIncomplete
  | deviceException (code : Byte)
  | checksumMismatch
  deriving DecidableEq, Repr

/-- `code(E)` (R151). -/
def Failure.code : Failure → ErrCode
  | .invalidArgument => .invalidArgument
  | .transportUnavailable => .transportUnavailable
  | .transportWriteIncomplete => .transportWriteIncomplete
  | .transportReadIncomplete => .transportReadIncomplete
  | .deviceException _ => .deviceException
  | .checksumMismatch => .checksumMismatch

/-- What `EXC_CODE` holds after `raise`: the code of a device exception, else what it held (R152). -/
def Failure.excCode (e : Failure) (old : Byte) : Byte :=
  match e with
  | .deviceException code => code
  | _ => old

/-- `raise E(info)`, the block's trap entry, one step: STATUS.ERR and, for a device exception, EXC_CODE are written,
SEQ returns to IDLE, nothing else changes and control goes nowhere (R152). There is no return from it: the host reads
STATUS and issues its next command (R165). -/
def State.raise (s : State) (e : Failure) : State :=
  { s with err := e.code, excCode := e.excCode s.excCode, seq := .idle }

/-- What the last host command returns. -/
def State.answer (s : State) (r : Reply) : State := { s with reply := r }

/-- A host command turned away: it changes no state and starts nothing (42_transaction.md R96; log entry 8). -/
def State.turnAway (s : State) (why : TurnedAway) : State := s.answer (.refused why)

end Sys2Proof.Machine
end

