-- ==== Sys2Proof/Machine/Flags.lean ====
section
/-!
DEFINITION. The status flags: STATUS.BUSY and the STATUS word (10_state.md R17, R27), what acceptance sets
(42_transaction.md R96), and when the result window is open (R31).
-/

namespace Sys2Proof.Machine

/-- `STATUS.BUSY`: 1 exactly while SEQ is not IDLE (R17). -/
def State.busy (s : State) : Bool := s.seq != .idle

/-- The three bits of `STATUS.ERR` (60_exceptions.md R151). -/
def ErrCode.bits : ErrCode → BitVec 3
  | .ok => 0
  | .invalidArgument => 1
  | .transportUnavailable => 2
  | .transportWriteIncomplete => 3
  | .transportReadIncomplete => 4
  | .deviceException => 5
  | .checksumMismatch => 6

/-- `STATUS`: [0] BUSY, [3:1] ERR, [4] CACHE_VALID, [5] TRANSPORT_PRESENT (R27). -/
def State.statusWord (s : State) : BitVec 6 :=
  BitVec.ofBool s.link.present ++ BitVec.ofBool s.cacheValid ++ s.err.bits ++ BitVec.ofBool s.busy

/-- What GETSTATUS returns (44_config_ops.md R145): not DEVADDR and not the delays, which no command returns (DESIGN
CHOICE, log entry 19). -/
def State.statusReply (s : State) : Reply :=
  .status s.statusWord s.excCode (BitVec.ofNat 7 s.resultLen.val)

/-- Acceptance of a transaction command, `IDLE → CHECK` (42_transaction.md R96). -/
def State.accept (s : State) (op : TxOp) : State :=
  { s with
    cur := { s.cur with op := op }
    err := .ok
    excCode := 0
    resultLen := 0
    seq := .check }

/-- The result window is open: no command runs and the last one succeeded (R31). -/
def State.resultOpen (s : State) : Bool := !s.busy && s.err == .ok

/-- What GETRESULT returns: the payload `RXBUF[2 .. 2+RESULT_LEN−1]` while the window is open (R145, R31), else as many
bytes the spec leaves unspecified to the host (free values, log entry 10). -/
def State.resultBytes (s : State) : List Byte :=
  if s.resultOpen then s.bytesAt .rxbuf 2 s.resultLen.val
  else (List.range s.resultLen.val).map (Config.hiddenByte s.link.draws)

end Sys2Proof.Machine
end

