-- ==== Sys2Proof/Machine/Operands.lean ====
section
/-!
DEFINITION. Operands: loading the operand registers (44_config_ops.md R144), the transaction a command's operand
registers describe (42_transaction.md R97), and the reads of the register cache (43_cache_codec.md R122 to R124).
-/

namespace Sys2Proof.Machine

/-! ### Operand loads -/

/-- `x[i] <- v` truncated to the width of `x[i]`, for i in 0..4 (R144). -/
def State.setX (s : State) (i : Nat) (v : Word) : State :=
  match i with
  | 0 => { s with x0 := v }
  | 1 => { s with x1 := v }
  | 2 => { s with x2 := v }
  | 3 => { s with x3 := v.setWidth 8 }
  | 4 => { s with x4 := v.setWidth 8 }
  | _ => s

/-- `DATA[0 ..] <- bs`, as far as DATA reaches (R11, R144). -/
def State.loadData (s : State) (bs : List Byte) : State :=
  s.store .data 0 (bs.take (Config.spaceSize .data))

/-! ### The transaction a command performs -/

/-- A transaction with its parameters fixed (R97); `data` is the bytes a write-multiple sends. -/
inductive Request
  | read (start count : Word)
  | write1 (reg value : Word)
  | writeN (start count : Word) (bytecount : Byte) (data : List Byte)
  deriving DecidableEq, Repr

/-- `CUR.KIND` of a transaction. -/
def Request.kind : Request → Kind
  | .read _ _ => .read
  | .write1 _ _ => .write1
  | .writeN _ _ _ _ => .writeN

/-- The count of a read is in [1,30] (R97, 41_frame_builder.md R86). -/
def readCountOk (count : Word) : Bool := 1 ≤ count.toNat && count.toNat ≤ Config.maxReadCount

/-- The count of a write-multiple is in [1,14] and its byte count twice that, on unbounded integers (R88). -/
def writeCountOk (count : Word) (bytecount : Byte) : Bool :=
  1 ≤ count.toNat && count.toNat ≤ Config.maxWriteCount && bytecount.toNat == 2 * count.toNat

/-- "Invariant: slot index < 10" (R97, 92 D15). -/
def slotOk (slot : Byte) : Bool := slot.toNat < Config.presetSlots

/-- The argument gate's case analysis: the transaction of a command, or none where it raises `InvalidArgument`
(R97, R153). -/
def State.request (s : State) (op : TxOp) : Option Request :=
  match op with
  | .rdreg => if readCountOk s.x1 then some (.read s.x0 s.x1) else none
  | .wrreg => some (.write1 s.x0 s.x2)
  | .wrmul =>
    if writeCountOk s.x1 s.x3 then some (.writeN s.x0 s.x1 s.x3 (s.bytesAt .data 0 s.x3.toNat)) else none
  | .refresh => some (.read Config.refreshStart Config.refreshCount)
  | .presetRd => if slotOk s.x4 then some (.read (presetAddr s.x4) Config.presetWords) else none
  | .presetWr =>
    if slotOk s.x4 then
      some (.writeN (presetAddr s.x4) Config.presetWords Config.presetBytes (presetEnc s.pr))
    else none
  | .setVolt => some (.write1 Config.vsetReg s.x2)

/-- `L`, the expected response length, computed from the request (R101). -/
def Request.responseLen : Request → Nat
  | .read _ count => 5 + 2 * count.toNat
  | .write1 _ _ => 8
  | .writeN _ _ _ _ => 8

/-! ### Reads of the cache -/

/-- `be16(CACHE[2i], CACHE[2i+1])` (R122, R44). -/
def State.cacheWord (s : State) (i : Nat) : Word :=
  be16 (s.byteAt .cache (2 * i)) (s.byteAt .cache (2 * i + 1))

/-- Low word at `i`, high word at `i + 1` (R123). -/
def State.cacheDword (s : State) (i : Nat) : DWord := dword (s.cacheWord (i + 1)) (s.cacheWord i)

/-- The low byte of register `i` is nonzero (R124). -/
def State.cacheFlag (s : State) (i : Nat) : Bool := flagOf (s.byteAt .cache (2 * i + 1))

end Sys2Proof.Machine
end

