-- ==== Sys2Proof/Machine/ConfigOps.lean ====
section
/-!
DEFINITION. Configuration, operand loads and status reads (44_config_ops.md R140 to R145).
-/

namespace Sys2Proof.Machine

/-- A register write by the host: taken while idle, turned away while a command runs (44 preamble, 92 D4). -/
def State.hostWrite (s : State) (write : State → State) : State :=
  if s.busy then s.turnAway .busy else (write s).answer .accepted

/-- The same, with an index outside its range turned away (R144). -/
def State.hostWriteIf (s : State) (ok : Bool) (write : State → State) : State :=
  if s.busy then s.turnAway .busy else if ok then (write s).answer .accepted else s.turnAway .range

/-- `SET_DEVADDR a` (R140). -/
def execSetDevaddr (a : Byte) (s : State) : Result := .next (s.hostWrite fun s => { s with devaddr := a })

/-- `SET_T_READ ms` (R141). -/
def execSetTRead (ms : Word) (s : State) : Result := .next (s.hostWrite fun s => { s with tReadMs := ms })

/-- `SET_T_WRITE ms` (R142). -/
def execSetTWrite (ms : Word) (s : State) : Result := .next (s.hostWrite fun s => { s with tWriteMs := ms })

/-- `SET_T_SETTLE ms` (R143). -/
def execSetTSettle (ms : Word) (s : State) : Result := .next (s.hostWrite fun s => { s with tSettleMs := ms })

/-- `SETX i, v`, i in 0..4 (R144). -/
def execSetx (i : Nat) (v : Word) (s : State) : Result :=
  .next (s.hostWriteIf (decide (i < 5)) fun s => s.setX i v)

/-- `SETDATA k, b`, k in 0..27 (R144). -/
def execSetdata (k : Nat) (b : Byte) (s : State) : Result :=
  .next (s.hostWriteIf (decide (k < Config.spaceSize .data)) fun s => s.store .data k [b])

/-- `SETPR field, v` (R144). -/
def execSetpr (field : PrField) (v : DWord) (s : State) : Result :=
  .next (s.hostWrite fun s => { s with pr := s.pr.setField field v })

/-- `GETSTATUS`, at any time (R145). -/
def execGetstatus (s : State) : Result := .next (s.answer s.statusReply)

/-- `GETRESULT`, at any time (R145). -/
def execGetresult (s : State) : Result := .next (s.answer (.bytes s.resultBytes))

/-- `GETPR`, at any time (R145). -/
def execGetpr (s : State) : Result := .next (s.answer (.record s.pr))

end Sys2Proof.Machine
end

