-- ==== Sys2Proof/Machine/Functions.lean ====
section
/-!
DEFINITION. The pure functions and the getters (40_checksum.md R80; 43_cache_codec.md R122 to R129). They are answered
at any time, while a command runs too (R121 (d), 92 D30; log entry 9), and change nothing but the answer. An operand
outside its range is turned away (log entry 8).
-/

namespace Sys2Proof.Machine

/-- Answer if the operand is in range, else turn the command away. -/
def State.answerIf (s : State) (ok : Bool) (r : Reply) : State :=
  if ok then s.answer r else s.turnAway .range

/-- `CRC16 bytes` (R80). -/
def execCrc16 (bytes : List Byte) (s : State) : Result := .next (s.answer (.word (crc16 bytes)))

/-- `GET16 i`, i in 0..30 (R122). -/
def execGet16 (i : Nat) (s : State) : Result :=
  .next (s.answerIf (decide (i < Config.cacheRegs)) (.word (s.cacheWord i)))

/-- `GET32 i`, i in 0..29 (R123). -/
def execGet32 (i : Nat) (s : State) : Result :=
  .next (s.answerIf (decide (i + 1 < Config.cacheRegs)) (.dword (s.cacheDword i)))

/-- `GETFLAG i`, i in 0..30 (R124). -/
def execGetflag (i : Nat) (s : State) : Result :=
  .next (s.answerIf (decide (i < Config.cacheRegs)) (.flag (s.cacheFlag i)))

/-- `GET_SET_VOLT` is `GET16 0` (R125). -/
def execGetSetVolt (s : State) : Result := .next (s.answer (.word (s.cacheWord 0)))

/-- `PRESET_ADDR slot`, slot in 0..9 (R126). -/
def execPresetAddr (slot : Byte) (s : State) : Result :=
  .next (s.answerIf (slotOk slot) (.word (presetAddr slot)))

/-- `PRESET_DEC b`, 28 bytes (R128). -/
def execPresetDec (b : List Byte) (s : State) : Result :=
  .next (s.answerIf (b.length == Config.presetBytes.toNat) (.record (presetDec b)))

/-- `PRESET_ENC record` (R129). -/
def execPresetEnc (record : PresetRecord) (s : State) : Result :=
  .next (s.answer (.bytes (presetEnc record)))

end Sys2Proof.Machine
end

