-- ==== Sys2Proof/WellFormed.lean ====
section
/-!
DEFINITION. The operand ranges the spec states. An instruction outside them is still executed (a transaction
command then ends in `InvalidArgument`, an out-of-range index is turned away); the encodings of
30_encoding.md are those of well-formed instructions.
-/

namespace Sys2Proof

/-- Every operand is in the range its rule gives. -/
def Instr.wellFormed : Instr → Bool
  -- "read count must be in [1,30]" (R86)
  | .rdreg _ count => 1 ≤ count.toNat && count.toNat ≤ Config.maxReadCount
  | .wrreg _ _ => true
  -- count in [1,14], byte count twice the count, that many data bytes (R88)
  | .wrmul _ count bytecount data =>
      1 ≤ count.toNat && count.toNat ≤ Config.maxWriteCount
        && bytecount.toNat == 2 * count.toNat && data.length == bytecount.toNat
  -- the data of 1 to 30 registers (R64)
  | .rspR _ _ _ data _ =>
      2 ≤ data.length && data.length ≤ 2 * Config.maxReadCount && data.length % 2 == 0
  | .rspW1 _ _ _ _ _ => true
  | .rspWn _ _ _ _ _ => true
  -- 5 bytes and a tail; the longest response the block asks for has 65 (R67, R6)
  | .rspX _ _ _ _ tail => tail.length ≤ 60
  | .refresh => true
  -- "Invariant: slot index < 10" (R10)
  | .presetRd slot => slot.toNat < Config.presetSlots
  | .presetWr slot => slot.toNat < Config.presetSlots
  | .setVolt _ => true
  | .crc16 _ => true
  -- indices inside the 62-byte buffer (R122, R123, R124)
  | .get16 i => i < Config.cacheRegs
  | .get32 i => i + 1 < Config.cacheRegs
  | .getflag i => i < Config.cacheRegs
  | .getSetVolt => true
  -- "Defined for slot 0 to 9" (R126)
  | .presetAddr slot => slot.toNat < Config.presetSlots
  -- 28 bytes (R128)
  | .presetDec bytes => bytes.length == Config.presetBytes.toNat
  | .presetEnc _ => true
  | .setDevaddr _ => true
  | .setTRead _ => true
  | .setTWrite _ => true
  | .setTSettle _ => true
  -- i in 0..4, k in 0..27 (R144)
  | .setx i _ => i < 5
  | .setdata k _ => k < Config.spaceSize .data
  | .setpr _ _ => true
  | .getstatus => true
  | .getresult => true
  | .getpr => true

end Sys2Proof
end

