-- ==== Sys2Proof/Decode.lean ====
section
/-!
DEFINITION. The frames as encodings (30_encoding.md R60 to R71): "the counterpart of an instruction encoding is
the frame". A decoder total on every byte sequence, which rejects by name, and an encoder written from the
frame tables. Host commands have no words (R73): the encoder answers none for them.
-/

namespace Sys2Proof

/-- Why a byte sequence is no frame. -/
inductive DecodeError
  /-- Shorter than the shortest frame of the direction. -/
  | tooShort
  /-- A request with bit 7 of the function code set: never built (R69). -/
  | exceptionBit
  /-- A request with a function code the protocol client does not use (R69). -/
  | unknownFunction (func : Byte)
  /-- The length is not the one the format gives (R70). -/
  | wrongLength
  /-- A request whose last two bytes are not its checksum (R60). -/
  | badChecksum
  deriving DecidableEq, Repr

/-- The direction of a frame. A response carries no mark of its transaction kind: the request fixes it
(R70), so it is an argument. -/
inductive Dir
  | request
  | response (kind : Kind)
  deriving DecidableEq, Repr

/-- Accept a request only if it is closed by its own checksum (R60). -/
def checkedRequest (frame : List Byte) (answer : Byte × Instr) : Except DecodeError (Byte × Instr) :=
  if crcMatches frame then .ok answer else .error .badChecksum

/-- A request frame: the address byte and the primitive command that builds it (R61, R62, R63). A composite
has the same words as the primitive it expands to (R74), so it decodes to that primitive. DESIGN CHOICE, log entry 11:
request words the Frame Builder never builds (a count of 0 or above its ceiling, a byte count that is not twice the count),
of which R71 (a) says only that they cannot be produced, decode to the RDREG or WRMUL with those operands, which is ill-formed
(`Instr.wellFormed`) and ends in `InvalidArgument` when run. -/
def decodeRequest (frame : List Byte) : Except DecodeError (Byte × Instr) :=
  match frame with
  | addr :: func :: aHi :: aLo :: bHi :: bLo :: rest =>
    if func = Config.fcRead then
      if rest.length = 2 then checkedRequest frame (addr, .rdreg (be16 aHi aLo) (be16 bHi bLo))
      else .error .wrongLength
    else if func = Config.fcWrite1 then
      if rest.length = 2 then checkedRequest frame (addr, .wrreg (be16 aHi aLo) (be16 bHi bLo))
      else .error .wrongLength
    else if func = Config.fcWriteN then
      match rest with
      | n :: more =>
        if more.length = n.toNat + 2 then
          checkedRequest frame (addr, .wrmul (be16 aHi aLo) (be16 bHi bLo) n (more.take n.toNat))
        else .error .wrongLength
      | [] => .error .tooShort
    else if func.msb then .error .exceptionBit
    else .error (.unknownFunction func)
  | _ => .error .tooShort

/-- A response frame: bit 7 of the function code alone decides for RSP-X, else the transaction kind fixes the
format (R64 to R67, R69). The checksum is a field here: judging it is the sequencer's (42_transaction.md R106). -/
def decodeResponse (kind : Kind) (frame : List Byte) : Except DecodeError Instr :=
  match frame with
  | addr :: func :: rest =>
    if func.msb then
      match rest with
      | e :: kLo :: kHi :: tail => .ok (.rspX addr (func.setWidth 7) e (be16 kHi kLo) tail)
      | _ => .error .tooShort
    else
      match kind with
      | .read =>
        match rest with
        | n :: more =>
          if 4 ≤ more.length ∧ more.length % 2 = 0 then
            .ok (.rspR addr (func.setWidth 7) n (more.take (more.length - 2))
              (be16 (more.getD (more.length - 1) 0#8) (more.getD (more.length - 2) 0#8)))
          else .error .wrongLength
        | [] => .error .tooShort
      | .write1 =>
        match rest with
        | [rHi, rLo, vHi, vLo, kLo, kHi] =>
          .ok (.rspW1 addr (func.setWidth 7) (be16 rHi rLo) (be16 vHi vLo) (be16 kHi kLo))
        | _ => .error .wrongLength
      | .writeN =>
        match rest with
        | [sHi, sLo, cHi, cLo, kLo, kHi] =>
          .ok (.rspWn addr (func.setWidth 7) (be16 sHi sLo) (be16 cHi cLo) (be16 kHi kLo))
        | _ => .error .wrongLength
  | _ => .error .tooShort

/-- The decoder: the instruction a frame stands for. -/
def decode (dir : Dir) (frame : List Byte) : Except DecodeError Instr :=
  match dir with
  | .request => (decodeRequest frame).map Prod.snd
  | .response kind => decodeResponse kind frame

/-- The function-code byte of a response: the seven low bits, with `EXC_BIT` in an exception response (R64 to R67). -/
def responseFunc (exc : Bool) (func : BitVec 7) : Byte :=
  if exc then func.setWidth 8 ||| Config.excBit else func.setWidth 8

/-- The bytes of a response frame (R64 to R67), each format's fields in transmission order. -/
def responseR (addr : Byte) (func : BitVec 7) (byteCount : Byte) (data : List Byte) (crc : Word) : List Byte :=
  [addr, responseFunc false func, byteCount] ++ data ++ [lo8 crc, hi8 crc]

/-- RSP-W1 and RSP-WN have one shape: two 16-bit fields (R65, R66). -/
def responseW (addr : Byte) (func : BitVec 7) (a b crc : Word) : List Byte :=
  [addr, responseFunc false func] ++ wordBytes a ++ wordBytes b ++ [lo8 crc, hi8 crc]

/-- RSP-X and the bytes after it (R67). -/
def responseX (addr : Byte) (func : BitVec 7) (excCode : Byte) (crc : Word) (tail : List Byte) : List Byte :=
  [addr, responseFunc true func, excCode, lo8 crc, hi8 crc] ++ tail

/-- The encoder: the words of an instruction. `addr` is what DEVADDR holds and `pr` what PR holds when the frame
is built (R90, 43_cache_codec.md R131); a response carries its own address. None: no words (R73). -/
def encode (addr : Byte) (pr : PresetRecord) : Instr → Option (List Byte)
  | .rdreg start count => some (appendCrc ([addr, 0x03#8] ++ wordBytes start ++ wordBytes count))
  | .wrreg reg value => some (appendCrc ([addr, 0x06#8] ++ wordBytes reg ++ wordBytes value))
  | .wrmul start count n data =>
      some (appendCrc ([addr, 0x10#8] ++ wordBytes start ++ wordBytes count ++ [n] ++ data))
  | .rspR a f n data k => some (responseR a f n data k)
  | .rspW1 a f reg value k => some (responseW a f reg value k)
  | .rspWn a f start count k => some (responseW a f start count k)
  | .rspX a f e k tail => some (responseX a f e k tail)
  | .refresh => some (appendCrc [addr, 0x03#8, 0x00#8, 0x00#8, 0x00#8, 0x1E#8])
  | .presetRd slot => some (appendCrc [addr, 0x03#8, 0x00#8, 0x50#8 + 16#8 * slot, 0x00#8, 0x0E#8])
  | .presetWr slot =>
      some (appendCrc ([addr, 0x10#8, 0x00#8, 0x50#8 + 16#8 * slot, 0x00#8, 0x0E#8, 0x1C#8] ++ presetEnc pr))
  | .setVolt value => some (appendCrc ([addr, 0x06#8, 0x00#8, 0x00#8] ++ wordBytes value))
  | .crc16 _ => none
  | .get16 _ => none
  | .get32 _ => none
  | .getflag _ => none
  | .getSetVolt => none
  | .presetAddr _ => none
  | .presetDec _ => none
  | .presetEnc _ => none
  | .setDevaddr _ => none
  | .setTRead _ => none
  | .setTWrite _ => none
  | .setTSettle _ => none
  | .setx _ _ => none
  | .setdata _ _ => none
  | .setpr _ _ => none
  | .getstatus => none
  | .getresult => none
  | .getpr => none

/-- The expansion of a composite command into its primitive (R74); every other instruction is its own. -/
def Instr.expand (pr : PresetRecord) : Instr → Instr
  | .refresh => .rdreg Config.refreshStart Config.refreshCount
  | .presetRd slot => .rdreg (Sys2Proof.presetAddr slot) Config.presetWords
  | .presetWr slot =>
      .wrmul (Sys2Proof.presetAddr slot) Config.presetWords Config.presetBytes (Sys2Proof.presetEnc pr)
  | .setVolt value => .wrreg Config.vsetReg value
  | i => i

/-- The `n` low bytes of `w`, most significant first. -/
def bytesBE : Nat → Nat → List Byte
  | 0, _ => []
  | n + 1, w => BitVec.ofNat 8 (w / 256 ^ n) :: bytesBE n w

/-- A frame of `len` bytes whose bytes from the function code on begin with `bits`, zeros after them, closed by
its checksum: how a word of the opcode table is laid out (its "match_byte" is 1, and its field k is the CRC of the
bytes before it). Log entry 11. -/
def tableFrame (len : Nat) (bits : List Byte) : List Byte :=
  appendCrc (((0x00#8 :: bits) ++ List.replicate len 0x00#8).take (len - 2))

/-- The composite row of the table whose fixed bits are all among the bits given, if there is one (R74). -/
def compositeRow (nbits w : Nat) (pr : Instr) : Instr :=
  if nbits = 40 ∧ w = 0x030000001E then .refresh
  else
    match pr with
    | .wrreg reg value => if nbits = 24 ∧ reg = Config.vsetReg then .setVolt value else .wrreg reg value
    | i => i

/-- What the decoder reads from the bits the opcode table gives a row: the row's number is the bytes from the
function code on, first byte most significant. A function code that no request has is a response's. -/
def decodeTableWord (nbits w : Nat) : Option Instr :=
  let bits := bytesBE (nbits / 8) w
  let func := bits.getD 0 0#8
  if func = Config.fcRead ∨ func = Config.fcWrite1 then
    ((decode .request (tableFrame 8 bits)).toOption).map (compositeRow nbits w)
  else if func = Config.fcWriteN then
    (decode .request (tableFrame (9 + (bits.getD 5 0#8).toNat) bits)).toOption
  else if func.msb then
    (decode (.response .read) (tableFrame 5 bits)).toOption
  else
    (decode (.response .read) (tableFrame 7 bits)).toOption

end Sys2Proof
end

