-- ==== Sys2Proof/Machine/FrameBuilder.lean ====
section
/-!
DEFINITION. The Frame Builder (41_frame_builder.md R85 to R90): three builders, each complete or nothing.
-/

namespace Sys2Proof.Machine

/-- `BUILD_READ(start, count)` for the address byte `addr`; none where it raises `InvalidArgument` (R86). -/
def buildRead (addr : Byte) (start count : Word) : Option (List Byte) :=
  if readCountOk count then
    some (appendCrc [addr, Config.fcRead, hi8 start, lo8 start, hi8 count, lo8 count])
  else none

/-- `BUILD_WRITE1(reg, value)`: it cannot fail (R87). -/
def buildWrite1 (addr : Byte) (reg value : Word) : List Byte :=
  appendCrc [addr, Config.fcWrite1, hi8 reg, lo8 reg, hi8 value, lo8 value]

/-- `BUILD_WRITEN(start, count, bytecount, data)`; none where it raises `InvalidArgument` (R88). -/
def buildWriteN (addr : Byte) (start count : Word) (bytecount : Byte) (data : List Byte) : Option (List Byte) :=
  if writeCountOk count bytecount then
    some (appendCrc ([addr, Config.fcWriteN, hi8 start, lo8 start, hi8 count, lo8 count, bytecount] ++ data))
  else none

/-- The builder that matches the transaction kind (42_transaction.md R99). -/
def Request.frame (addr : Byte) : Request → Option (List Byte)
  | .read start count => buildRead addr start count
  | .write1 reg value => some (buildWrite1 addr reg value)
  | .writeN start count bytecount data => buildWriteN addr start count bytecount data

end Sys2Proof.Machine
end

