-- ==== Sys2Proof/Machine/Sequencer.lean ====
section
/-!
DEFINITION. The Transaction Executor (42_transaction.md R95 to R107): one function per phase, the sequencer's step,
and a command run to its end.
-/

namespace Sys2Proof.Machine

/-- Phase CHECK: the argument gate, then the presence gate (R97, R98). -/
def phaseCheck (s : State) : State :=
  match s.request s.cur.op with
  | none => s.raise .invalidArgument
  | some r =>
    let s := { s with cur := { s.cur with kind := r.kind } }
    if s.link.present then { s with seq := .build } else s.raise .transportUnavailable

/-- Phase BUILD: the frame into TXBUF, its length and the expected response length into CUR (R99, R101). The gates
of CHECK have passed, so the builder does not fail; in a state no run reaches it raises `InvalidArgument` as the builder
does (41_frame_builder.md R85; log entry 17). -/
def phaseBuild (s : State) : State :=
  match s.request s.cur.op with
  | none => s.raise .invalidArgument
  | some r =>
    match r.frame s.devaddr with
    | none => s.raise .invalidArgument
    | some f =>
      { s.store .txbuf 0 f with
        cur := { s.cur with txLen := Fin.ofNat 38 f.length, rxLen := Fin.ofNat 66 r.responseLen }
        seq := .timeout }

/-- Phase TIMEOUT (R100). -/
def phaseTimeout (s : State) : State :=
  { s with
    link := s.link.setReadTimeout (if s.cur.kind = .read then s.tReadMs else s.tWriteMs)
    seq := .send }

/-- The frame phase SEND hands over (R102). -/
def State.txFrame (s : State) : List Byte := s.bytesAt .txbuf 0 s.cur.txLen.val

/-- Phase SEND: one call, the whole frame (R102). -/
def phaseSend (s : State) : State :=
  let n := s.link.nextCount
  let s := { s with link := s.link.write s.txFrame }
  if n = s.cur.txLen.val then { s with seq := .settle } else s.raise .transportWriteIncomplete

/-- Phase SETTLE: an always-enabled step in a model without time (R103, 92 D24; log entry 13). -/
def phaseSettle (s : State) : State := { s with link := s.link.delay s.tSettleMs, seq := .recv }

/-- Phase RECV when `arrived` comes in before the timeout (R104): the bytes received go to RXBUF, the rest of RXBUF is
untouched, and fewer than asked for is a failure. -/
def recvWith (arrived : List Byte) (s : State) : State :=
  let got := s.link.received s.cur.rxLen.val arrived
  let s := { s.store .rxbuf 0 got with link := s.link.readExactly s.cur.rxLen.val arrived }
  if got.length < s.cur.rxLen.val then s.raise .transportReadIncomplete else { s with seq := .exc }

/-- Phase RECV, the arrivals supplied by the transport oracle (R104, 60_exceptions.md R163). -/
def phaseRecv (s : State) : State :=
  recvWith s.link.nextArrivals { s with link := s.link.passArrivals }

/-- Phase EXC: bit 7 of byte 1 alone (R105). -/
def phaseExc (s : State) : State :=
  if (s.byteAt .rxbuf 1).getLsbD 7 then s.raise (.deviceException (s.byteAt .rxbuf 2))
  else { s with seq := .crc }

/-- Phase CRC: the checksum of all bytes but the last two against these two, low byte first (R106). -/
def phaseCrc (s : State) : State :=
  let c := crc16 (s.bytesAt .rxbuf 0 (s.cur.rxLen.val - 2))
  if lo8 c ≠ s.byteAt .rxbuf (s.cur.rxLen.val - 2) ∨ hi8 c ≠ s.byteAt .rxbuf (s.cur.rxLen.val - 1) then
    s.raise .checksumMismatch
  else { s with seq := .deliver }

/-- The local action of a command on success (R107, 30_encoding.md R74). -/
def State.publish (s : State) : State :=
  match s.cur.op with
  | .refresh => { s.store .cache 0 (s.bytesAt .rxbuf 3 60) with cacheValid := true }
  | .presetRd => { s with pr := presetDec (s.bytesAt .rxbuf 3 28) }
  | .rdreg | .wrreg | .wrmul | .presetWr | .setVolt => s

/-- `RESULT_LEN`: the payload length `CUR.RXLEN − 4` (R24, R107). -/
def payloadLen (rxLen : Fin 66) : Fin 62 := ⟨rxLen.val - 4, by omega⟩

/-- Phase DELIVER, one step (R107). -/
def phaseDeliver (s : State) : State :=
  { s.publish with resultLen := payloadLen s.cur.rxLen, err := .ok, seq := .idle }

/-- One step of the sequencer: one phase (R95); nothing while idle (70_reset_and_hazards.md R171). -/
def seqStep (s : State) : State :=
  match s.seq with
  | .idle => s
  | .check => phaseCheck s
  | .build => phaseBuild s
  | .timeout => phaseTimeout s
  | .send => phaseSend s
  | .settle => phaseSettle s
  | .recv => phaseRecv s
  | .exc => phaseExc s
  | .crc => phaseCrc s
  | .deliver => phaseDeliver s

/-- Up to `n` steps of the sequencer, until it is idle. -/
def runPhases : Nat → State → State
  | 0, s => s
  | n + 1, s => if s.seq = .idle then s else runPhases n (seqStep s)

/-- Issue a command with the operand registers as they stand: accepted when idle, else turned away (R96). -/
def State.issue (s : State) (op : TxOp) : State :=
  if s.busy then s.turnAway .busy else (s.accept op).answer .accepted

/-- A command issued and run to its end as a blocking call (20_memory.md R51): acceptance and the nine phases after
IDLE (R95). -/
def State.transact (s : State) (op : TxOp) : State := runPhases 9 ((s.accept op).answer .accepted)

/-- A transaction command with its operands as if immediate (30_encoding.md R73): load them, then run the command; while
another runs, all of it is turned away (log entry 7). -/
def State.call (s : State) (load : State → State) (op : TxOp) : State :=
  if s.busy then s.turnAway .busy else (load s).transact op

/-- A frame comes from the device. While the sequencer waits for its response the frame is what comes in before the
timeout, and RECV, EXC, CRC and DELIVER run on it; at any other time the transport holds it (R104 to R107, 10_state.md
R34; log entry 6). -/
def State.respond (s : State) (frame : List Byte) : State :=
  if s.seq = .recv then runPhases 3 (recvWith frame s) else { s with link := s.link.hold frame }

/-- The reset event: every piece of the block's state at its reset value, the transport and the host's coming turns as
they are, and unwritten memory unspecified anew (70_reset_and_hazards.md R170; log entry 14). -/
def State.resetEvent (s : State) : State :=
  { State.reset with link := s.link, port := s.port, epoch := s.epoch + 1 }

end Sys2Proof.Machine
end

