-- ==== Sys2Proof/Machine/Response.lean ====
section
/-!
DEFINITION. The meanings of the four response rows: the frame comes from the device (30_encoding.md R64 to R67;
42_transaction.md R104 to R107; log entry 6).
-/

namespace Sys2Proof.Machine

/-- RSP-R, the response to read registers (30_encoding.md R64, 42_transaction.md R107). -/
def execRspR (addr : Byte) (func : BitVec 7) (byteCount : Byte) (data : List Byte) (crc : Word) (s : State) : Result :=
  .next (s.respond (responseR addr func byteCount data crc))

/-- RSP-W1, the echo of a write single (R65, R107). -/
def execRspW1 (addr : Byte) (func : BitVec 7) (reg value crc : Word) (s : State) : Result :=
  .next (s.respond (responseW addr func reg value crc))

/-- RSP-WN, the response to write multiple (R66, R107). -/
def execRspWn (addr : Byte) (func : BitVec 7) (start count crc : Word) (s : State) : Result :=
  .next (s.respond (responseW addr func start count crc))

/-- RSP-X, an exception response and what follows it (R67, R105). -/
def execRspX (addr : Byte) (func : BitVec 7) (excCode : Byte) (crc : Word) (tail : List Byte) (s : State) : Result :=
  .next (s.respond (responseX addr func excCode crc tail))

end Sys2Proof.Machine
end

