-- ==== Sys2Proof/Machine/Transaction.lean ====
section
/-!
DEFINITION. The meanings of the seven transaction commands, each by its operands as if immediate
(30_encoding.md R73): what is loaded, and which command then runs.
-/

namespace Sys2Proof.Machine

/-- `RDREG start, count` (42_transaction.md R110). -/
def execRdreg (start count : Word) (s : State) : Result :=
  .next (s.call (fun s => (s.setX 0 start).setX 1 count) .rdreg)

/-- `WRREG reg, value` (R111). -/
def execWrreg (reg value : Word) (s : State) : Result :=
  .next (s.call (fun s => (s.setX 0 reg).setX 2 value) .wrreg)

/-- `WRMUL start, count, bytecount, data` (R112). -/
def execWrmul (start count : Word) (bytecount : Byte) (data : List Byte) (s : State) : Result :=
  .next (s.call
    (fun s => (((s.setX 0 start).setX 1 count).setX 3 (bytecount.setWidth 16)).loadData data) .wrmul)

/-- `REFRESH` (43_cache_codec.md R120). -/
def execRefresh (s : State) : Result := .next (s.call (fun s => s) .refresh)

/-- `PRESET_RD slot` (R130). -/
def execPresetRd (slot : Byte) (s : State) : Result :=
  .next (s.call (fun s => s.setX 4 (slot.setWidth 16)) .presetRd)

/-- `PRESET_WR slot` (R131). -/
def execPresetWr (slot : Byte) (s : State) : Result :=
  .next (s.call (fun s => s.setX 4 (slot.setWidth 16)) .presetWr)

/-- `SET_VOLT value` (R132). -/
def execSetVolt (value : Word) (s : State) : Result :=
  .next (s.call (fun s => s.setX 2 value) .setVolt)

end Sys2Proof.Machine
end

