-- ==== Sys2Proof/Machine/Dispatch.lean ====
section
/-! DEFINITION. The meaning of every instruction, one arm per constructor of `Instr`. -/

namespace Sys2Proof.Machine

def exec (i : Instr) (s : State) : Host.Outcome State Fault Refusal :=
  match i with
  | .rdreg start count => Sys2Proof.Machine.execRdreg start count s
  | .wrreg reg value => Sys2Proof.Machine.execWrreg reg value s
  | .wrmul start count bytecount data => Sys2Proof.Machine.execWrmul start count bytecount data s
  | .rspR addr func byteCount data crc => Sys2Proof.Machine.execRspR addr func byteCount data crc s
  | .rspW1 addr func reg value crc => Sys2Proof.Machine.execRspW1 addr func reg value crc s
  | .rspWn addr func start count crc => Sys2Proof.Machine.execRspWn addr func start count crc s
  | .rspX addr func excCode crc tail => Sys2Proof.Machine.execRspX addr func excCode crc tail s
  | .refresh => Sys2Proof.Machine.execRefresh s
  | .presetRd slot => Sys2Proof.Machine.execPresetRd slot s
  | .presetWr slot => Sys2Proof.Machine.execPresetWr slot s
  | .setVolt value => Sys2Proof.Machine.execSetVolt value s
  | .crc16 bytes => Sys2Proof.Machine.execCrc16 bytes s
  | .get16 k => Sys2Proof.Machine.execGet16 k s
  | .get32 k => Sys2Proof.Machine.execGet32 k s
  | .getflag k => Sys2Proof.Machine.execGetflag k s
  | .getSetVolt => Sys2Proof.Machine.execGetSetVolt s
  | .presetAddr slot => Sys2Proof.Machine.execPresetAddr slot s
  | .presetDec bytes => Sys2Proof.Machine.execPresetDec bytes s
  | .presetEnc record => Sys2Proof.Machine.execPresetEnc record s
  | .setDevaddr a => Sys2Proof.Machine.execSetDevaddr a s
  | .setTRead ms => Sys2Proof.Machine.execSetTRead ms s
  | .setTWrite ms => Sys2Proof.Machine.execSetTWrite ms s
  | .setTSettle ms => Sys2Proof.Machine.execSetTSettle ms s
  | .setx k v => Sys2Proof.Machine.execSetx k v s
  | .setdata k b => Sys2Proof.Machine.execSetdata k b s
  | .setpr field v => Sys2Proof.Machine.execSetpr field v s
  | .getstatus => Sys2Proof.Machine.execGetstatus s
  | .getresult => Sys2Proof.Machine.execGetresult s
  | .getpr => Sys2Proof.Machine.execGetpr s

end Sys2Proof.Machine
end

