-- ==== Sys2Proof/Machine/Step.lean ====
section
/-!
DEFINITION. One step of the machine: the next turn of the world outside, or, when none waits, one step of the
sequencer.
-/

namespace Sys2Proof.Machine

/-- One step. The host's next turn is taken from the port: an instruction is executed, a bare command issued, a reset
event happens, or the host waits and the sequencer takes its step. With no turn waiting the sequencer takes its step; an
idle block then stays as it is (70_reset_and_hazards.md R171). -/
def step (s : State) : Host.Outcome State Fault Refusal :=
  match s.port with
  | [] => .next (seqStep s)
  | .instr i :: rest => exec i { s with port := rest }
  | .issue op :: rest => .next (State.issue { s with port := rest } op)
  | .tick :: rest => .next (seqStep { s with port := rest })
  | .reset :: rest => .next (State.resetEvent { s with port := rest })

/-- The instruction a word of the opcode table stands for, placed as the next turn: where `step` takes its next
instruction from (log entries 1, 11). A word that is no instruction places nothing. -/
def State.withFetchWord (s : State) (nbits w : Nat) : State :=
  match decodeTableWord nbits w with
  | some i => { s with port := .instr i :: s.port }
  | none => s

end Sys2Proof.Machine
end

