-- ==== Sys2Proof/Safety.lean ====
section
/-!
DEFINITION. What claims are stated in: the outcome a command ought to have (60_exceptions.md R159), what a command
leaves alone, and the invariant of the machine.
-/

namespace Sys2Proof.Machine

/-! ### The outcome of a transaction, said at once -/

/-- What `readExactly(len)` will return in the next transaction: the transport answers `write` first. -/
def Link.answerTo (l : Link) (len : Nat) : List Byte := (l.write []).received len (l.write []).nextArrivals

/-- A full-length response with bit 7 of byte 1 clear and the right checksum (R104 to R106). -/
def goodResponse (len : Nat) (r : List Byte) : Bool :=
  r.length == len && !(r.getD 1 0#8).getLsbD 7 && crcMatches r

/-- Where a response of the expected length `len` leads (60_exceptions.md R156, R157, R158). -/
def responseVerdict (len : Nat) (r : List Byte) : ErrCode :=
  if r.length < len then .transportReadIncomplete
  else if (r.getD 1 0#8).getLsbD 7 then .deviceException
  else if crcMatches r then .ok
  else .checksumMismatch

/-- The outcome of a transaction command: that of the first gate that fails (R159). -/
def State.verdict (s : State) (op : TxOp) : ErrCode :=
  match s.request op with
  | none => .invalidArgument
  | some r =>
    if s.link.present = false then .transportUnavailable
    else if some s.link.nextCount ≠ (r.frame s.devaddr).map List.length then .transportWriteIncomplete
    else responseVerdict r.responseLen (s.link.answerTo r.responseLen)

/-- The command's frame, when it has one. -/
def State.frameOf (s : State) (op : TxOp) : List Byte :=
  match s.request op with
  | none => []
  | some r => (r.frame s.devaddr).getD []

/-- The expected response length of the command, when it has one. -/
def State.lenOf (s : State) (op : TxOp) : Nat :=
  match s.request op with
  | none => 0
  | some r => r.responseLen

/-- The value handed to `setReadTimeout` for the command (42_transaction.md R100). -/
def State.timeoutOf (s : State) (op : TxOp) : Word :=
  match op with
  | .rdreg | .refresh | .presetRd => s.tReadMs
  | .wrreg | .wrmul | .presetWr | .setVolt => s.tWriteMs

/-- The transport operations of one command, cut where it ends (R113). -/
def State.traceOf (s : State) (op : TxOp) : List TransportOp :=
  let sent := [.setReadTimeout (s.timeoutOf op), .write (s.frameOf op) s.link.nextCount]
  match s.verdict op with
  | .invalidArgument => []
  | .transportUnavailable => []
  | .transportWriteIncomplete => sent
  | _ => sent ++ [.delay s.tSettleMs, .readExactly (s.lenOf op) (s.link.answerTo (s.lenOf op))]

/-! ### The seven commands -/

/-- The instruction of a command whose operands are what the operand registers hold (30_encoding.md R73, R74). -/
def State.instrOf (s : State) : TxOp → Instr
  | .rdreg => .rdreg s.x0 s.x1
  | .wrreg => .wrreg s.x0 s.x2
  | .wrmul => .wrmul s.x0 s.x1 s.x3 (s.bytesAt .data 0 s.x3.toNat)
  | .refresh => .refresh
  | .presetRd => .presetRd s.x4
  | .presetWr => .presetWr s.x4
  | .setVolt => .setVolt s.x2

/-- `SETDATA k, b` for the bytes of `bs`, from DATA[k] on. -/
def dataLoads : Nat → List Byte → List Turn
  | _, [] => []
  | k, b :: bs => .instr (.setdata k b) :: dataLoads (k + 1) bs

end Sys2Proof.Machine

namespace Sys2Proof

open Machine

/-- The transaction kind of a command (42_transaction.md R97). -/
def TxOp.kind : TxOp → Kind
  | .rdreg | .refresh | .presetRd => .read
  | .wrreg | .setVolt => .write1
  | .wrmul | .presetWr => .writeN

/-- The host's turns that a transaction command with immediate operands stands for: "write `x[0] <- 0x0000`,
`x[1] <- 30`, then issue RDREG" (30_encoding.md R73). None: no transaction command. -/
def Instr.turns : Instr → Option (List Turn)
  | .rdreg start count => some [.instr (.setx 0 start), .instr (.setx 1 count), .issue .rdreg]
  | .wrreg reg value => some [.instr (.setx 0 reg), .instr (.setx 2 value), .issue .wrreg]
  | .wrmul start count bytecount bs =>
      some ([.instr (.setx 0 start), .instr (.setx 1 count), .instr (.setx 3 (bytecount.setWidth 16))]
        ++ dataLoads 0 bs ++ [.issue .wrmul])
  | .refresh => some [.issue .refresh]
  | .presetRd slot => some [.instr (.setx 4 (slot.setWidth 16)), .issue .presetRd]
  | .presetWr slot => some [.instr (.setx 4 (slot.setWidth 16)), .issue .presetWr]
  | .setVolt value => some [.instr (.setx 2 value), .issue .setVolt]
  | .rspR _ _ _ _ _ => none
  | .rspW1 _ _ _ _ _ => none
  | .rspWn _ _ _ _ _ => none
  | .rspX _ _ _ _ _ => none
  | .crc16 _ => none
  | .get16 _ => none
  | .get32 _ => none
  | .getflag _ => none
  | .getSetVolt => none
  | .presetAddr _ => none
  | .presetDec _ => none
  | .presetEnc _ => none
  | .setDevaddr _ => none
  | .setTRead _ => none
  | .setTWrite _ => none
  | .setTSettle _ => none
  | .setx _ _ => none
  | .setdata _ _ => none
  | .setpr _ _ => none
  | .getstatus => none
  | .getresult => none
  | .getpr => none

/-- A frame from the device, not a command of the host. -/
def Instr.isResponse : Instr → Bool
  | .rspR _ _ _ _ _ | .rspW1 _ _ _ _ _ | .rspWn _ _ _ _ _ | .rspX _ _ _ _ _ => true
  | _ => false

/-- A host command that is a function of its operands and the state, or reads the status: answered at any time. -/
def Instr.isRead : Instr → Bool
  | .crc16 _ | .get16 _ | .get32 _ | .getflag _ | .getSetVolt | .presetAddr _ | .presetDec _ | .presetEnc _
  | .getstatus | .getresult | .getpr => true
  | _ => false

end Sys2Proof

namespace Sys2Proof.Machine

/-- The phase after a phase whose gate has passed (10_state.md R15). -/
def Phase.succ : Phase → Phase
  | .idle => .check
  | .check => .build
  | .build => .timeout
  | .timeout => .send
  | .send => .settle
  | .settle => .recv
  | .recv => .exc
  | .exc => .crc
  | .crc => .deliver
  | .deliver => .idle

/-! ### What is left alone -/

/-- Every byte of a memory reads as before. -/
def SameBytes (sp : Space) (s t : State) : Prop := ∀ a, t.byteAt sp a = s.byteAt sp a

/-- The operand registers are the same. -/
def SameOperands (s t : State) : Prop :=
  t.x0 = s.x0 ∧ t.x1 = s.x1 ∧ t.x2 = s.x2 ∧ t.x3 = s.x3 ∧ t.x4 = s.x4

/-- The control registers are the same (10_state.md R20 to R23). -/
def SameControl (s t : State) : Prop :=
  t.devaddr = s.devaddr ∧ t.tReadMs = s.tReadMs ∧ t.tWriteMs = s.tWriteMs ∧ t.tSettleMs = s.tSettleMs

/-- The status registers and the sequencer are the same. -/
def SameStatus (s t : State) : Prop :=
  t.seq = s.seq ∧ t.cur = s.cur ∧ t.err = s.err ∧ t.excCode = s.excCode ∧ t.resultLen = s.resultLen
    ∧ t.cacheValid = s.cacheValid

/-- The world outside the block has not moved: no transport operation, no turn taken, no reset event. -/
def SameOutside (s t : State) : Prop := t.link = s.link ∧ t.port = s.port ∧ t.epoch = s.epoch

/-- What a transaction leaves alone whatever its outcome and whatever the command, but for the operand registers the
immediate form loads: PR and the cache are said apart (60_exceptions.md R152, 43_cache_codec.md R121). -/
def SameAroundTransaction (s t : State) : Prop :=
  SameControl s t ∧ t.link.present = s.link.present ∧ t.port = s.port ∧ t.epoch = s.epoch

/-! ### A transaction that succeeds -/

/-- Nothing stands in the way of a transaction with the frame `f` and the expected length `len`: the block is idle, the
transport is present, takes the whole frame, and delivers a good response. -/
abbrev State.Ready (s : State) (f : List Byte) (len : Nat) : Prop :=
  s.seq = .idle ∧ s.link.present = true ∧ s.link.nextCount = f.length
    ∧ goodResponse len (s.link.answerTo len) = true

/-- The transaction is done: outcome, published payload, the two scratch buffers, the operations at the transport, and
what is left alone (R107, R113, R152). `f` is the frame sent, `ans` the response. -/
def TransactionDone (s t : State) (timeout : Word) (f ans : List Byte) : Prop :=
  t.seq = .idle ∧ t.err = .ok ∧ t.excCode = 0 ∧ t.reply = .accepted
    ∧ t.resultLen.val = ans.length - 4 ∧ t.resultBytes = (ans.drop 2).take (ans.length - 4)
    ∧ (∀ a, t.byteAt .rxbuf a = if a < ans.length then ans.getD a 0#8 else s.byteAt .rxbuf a)
    ∧ (∀ a, t.byteAt .txbuf a = if a < f.length then f.getD a 0#8 else s.byteAt .txbuf a)
    ∧ t.link.trace = s.link.trace ++
        [.setReadTimeout timeout, .write f f.length, .delay s.tSettleMs, .readExactly ans.length ans]
    ∧ SameAroundTransaction s t

/-! ### The invariant -/

/-- The memories are in canonical form; CACHE[60..61] is never written (10_state.md R32). -/
def State.MemoriesWf (s : State) : Prop :=
  Memory.wf (Config.spaceSize .data) s.data ∧ Memory.wf (Config.spaceSize .txbuf) s.txbuf
    ∧ Memory.wf (Config.spaceSize .rxbuf) s.rxbuf ∧ Memory.wf 60 s.cache

/-- The status registers agree with one another (10_state.md R18, R19, R24): while a command runs they hold what
acceptance put there, EXC_CODE is 0 without a device exception, RESULT_LEN is 0 after a failure. -/
def State.StatusOk (s : State) : Prop :=
  (s.seq ≠ .idle → s.err = .ok ∧ s.resultLen = 0)
    ∧ (s.err ≠ .deviceException → s.excCode = 0)
    ∧ (s.err ≠ .ok → s.resultLen = 0)

/-- CACHE_VALID tells whether bytes 0 to 59 have been written since reset, all of them or none (R25, R32). -/
def State.CacheOk (s : State) : Prop :=
  (s.cacheValid = false → s.cache = []) ∧ (s.cacheValid = true → ∀ a < 60, s.cache.read? a ≠ none)

/-- The phases after CHECK. -/
def Phase.afterCheck (p : Phase) : Bool := p != .idle && p != .check

/-- The phases after BUILD. -/
def Phase.afterBuild (p : Phase) : Bool := p.afterCheck && p != .build

/-- The phases after RECV. -/
def Phase.afterRecv (p : Phase) : Bool := p == .exc || p == .crc || p == .deliver

/-- The bytes RECV put into RXBUF for the running command. -/
def State.rxFrame (s : State) : List Byte := s.bytesAt .rxbuf 0 s.cur.rxLen.val

/-- The running command's latched context is that of its operand registers, and each gate that has been passed holds
(R15, R16): the transaction is legal and the transport present after CHECK, TXBUF holds its frame and CUR its lengths
after BUILD, the exception bit is clear after EXC and the checksum right after CRC. -/
def State.ContextOk (s : State) : Prop :=
  (s.seq.afterCheck →
    s.link.present = true ∧ ∃ r, s.request s.cur.op = some r ∧ s.cur.kind = r.kind
      ∧ (s.seq.afterBuild →
          r.frame s.devaddr = some s.txFrame ∧ s.cur.rxLen.val = r.responseLen))
    ∧ (s.seq = .crc ∨ s.seq = .deliver → (s.byteAt .rxbuf 1).getLsbD 7 = false)
    ∧ (s.seq = .deliver → crcMatches s.rxFrame = true)

/-- The invariant of the machine. -/
def State.Inv (s : State) : Prop := s.MemoriesWf ∧ s.StatusOk ∧ s.CacheOk ∧ s.ContextOk

end Sys2Proof.Machine
end

