-- ==== Sys2Proof/Certificates/Slice0/Obligations.lean ====
section
/-!
DEFINITION. The statements for the provers, in the order of the spec's files: encodings, checksum, codec, getters,
configuration, the phases, the transactions, the responses, and the rules about the whole machine.
-/

open Sys2Proof Sys2Proof.Machine

/-! ### Encodings (30_encoding.md) -/

/-- Decoding the words of a well-formed instruction gives it back with every operand: a primitive request itself and the
address byte, a composite its expansion (R74), a response itself (R61 to R67, R70). -/
def Obligations.DecodeOfEncodeGivesTheInstruction : Prop :=
  ∀ (addr : Byte) (pr : PresetRecord) (i : Instr) (frame : List Byte),
    i.wellFormed = true → encode addr pr i = some frame →
      match i with
      | .rspR _ _ _ _ _ => decode (.response .read) frame = .ok i
      | .rspW1 _ _ _ _ _ => decode (.response .write1) frame = .ok i
      | .rspWn _ _ _ _ _ => decode (.response .writeN) frame = .ok i
      | .rspX _ _ _ _ _ => ∀ kind, decode (.response kind) frame = .ok i
      | i => decodeRequest frame = .ok (addr, i.expand pr)

/-- A frame that decodes is exactly the encoding of what it decodes to: no bit of it is dropped (R60 to R70). -/
def Obligations.EncodeOfDecodedGivesTheFrame : Prop :=
  ∀ (addr : Byte) (pr : PresetRecord) (kind : Kind) (i : Instr) (frame : List Byte),
    (decodeRequest frame = .ok (addr, i) → encode addr pr i = some frame)
    ∧ (decodeResponse kind frame = .ok i → encode addr pr i = some frame)

/-- What the Frame Builder assembles for a command is the encoding of the command with its operands as the operand registers
hold them, at most 37 bytes (R61 to R63, 41_frame_builder.md R86 to R88, 00_scope.md R6). -/
def Obligations.FrameBuilderSendsTheEncodedWords : Prop :=
  ∀ (s : State) (op : TxOp) (r : Request), s.request op = some r →
    ∃ f, r.frame s.devaddr = some f ∧ encode s.devaddr s.pr (s.instrOf op) = some f ∧ f.length ≤ 37

/-- Words written out from the frame tables decode to what they stand for (R61 to R67); a sanity statement. -/
def Obligations.WordsFromTheTablesDecode : Prop :=
  decodeRequest [0x01#8, 0x03#8, 0x00#8, 0x1D#8, 0x00#8, 0x01#8, 0x14#8, 0x0C#8]
      = .ok (0x01#8, .rdreg 0x001D#16 1#16)
    ∧ decodeRequest [0x01#8, 0x06#8, 0x00#8, 0x00#8, 0x08#8, 0x02#8, 0x0F#8, 0xCB#8]
      = .ok (0x01#8, .wrreg 0x0000#16 2050#16)
    ∧ decodeRequest [0x01#8, 0x10#8, 0x00#8, 0x50#8, 0x00#8, 0x01#8, 0x02#8, 0x04#8, 0xB0#8, 0xA9#8, 0x74#8]
      = .ok (0x01#8, .wrmul 0x0050#16 1#16 2#8 [0x04#8, 0xB0#8])
    ∧ decodeResponse .read [0x01#8, 0x03#8, 0x02#8, 0x00#8, 0x03#8, 0xF8#8, 0x45#8]
      = .ok (.rspR 0x01#8 0x03#7 2#8 [0x00#8, 0x03#8] 0x45F8#16)
    ∧ decodeResponse .write1 [0x01#8, 0x86#8, 0x02#8, 0xC3#8, 0xA1#8]
      = .ok (.rspX 0x01#8 0x06#7 2#8 0xA1C3#16 [])

/-! ### The checksum (40_checksum.md) -/

/-- R84: for every byte sequence `h`, `CRC16(h ++ [lo8(c), hi8(c)]) = 0` where `c = CRC16(h)`. -/
def Obligations.ResidueOfAClosedFrameIsZero : Prop :=
  ∀ h : List Byte, crc16 (h ++ [lo8 (crc16 h), hi8 (crc16 h)]) = 0#16

/-- R81: the reference value and the two generally known ones. -/
def Obligations.ReferenceChecksums : Prop :=
  crc16 [0x01#8, 0x03#8, 0x00#8, 0x00#8, 0x00#8, 0x1E#8] = 0xC2C5#16
    ∧ crcBytes [0x01#8, 0x03#8, 0x00#8, 0x00#8, 0x00#8, 0x1E#8] = [0xC5#8, 0xC2#8]
    ∧ crc16 [0x31#8, 0x32#8, 0x33#8, 0x34#8, 0x35#8, 0x36#8, 0x37#8, 0x38#8, 0x39#8] = 0x4B37#16
    ∧ appendCrc [0x01#8, 0x03#8, 0x00#8, 0x00#8, 0x00#8, 0x0A#8]
        = [0x01#8, 0x03#8, 0x00#8, 0x00#8, 0x00#8, 0x0A#8, 0xC5#8, 0xCD#8]

/-- A frame that passes the check of step 6 no longer passes it when any one of its bytes is replaced by another. -/
def Obligations.OneWrongByteIsAlwaysCaught : Prop :=
  ∀ (r : List Byte) (i : Nat) (b : Byte), 2 ≤ r.length → i < r.length → crcMatches r = true → r.getD i 0#8 ≠ b →
    crcMatches (r.set i b) = false

/-- CRC16 as a command answers with the checksum of its bytes, changes nothing else, and the frame closed with that answer,
low byte first, passes the check of step 6 (R80, R82, R83).
That it is answered also while a command runs is the model's reading, log entry 9. -/
def Obligations.Crc16AnswersTheClosingChecksum : Prop :=
  ∀ (bs : List Byte) (s : State), ∃ c : Word,
    exec (.crc16 bs) s = .next { s with reply := .word c } ∧ crcMatches (bs ++ [lo8 c, hi8 c]) = true

/-! ### The preset codec (43_cache_codec.md) -/

/-- R133: decoding an encoded record gives it back; the converse holds exactly when byte 26 is 0 and byte 27 is 0 or 1. -/
def Obligations.PresetRoundTrip : Prop :=
  (∀ r : PresetRecord, presetDec (presetEnc r) = r)
    ∧ ∀ b : List Byte, b.length = 28 →
      (presetEnc (presetDec b) = b ↔ b.getD 26 0#8 = 0x00#8 ∧ (b.getD 27 0#8 = 0x00#8 ∨ b.getD 27 0#8 = 0x01#8))

/-- R129: PRESET_ENC answers with 28 bytes in the field order, words big-endian, 32-bit fields low word first, a true flag as
the word 0x0001; nothing else changes.
That it is answered also while a command runs is the model's reading, log entry 9. -/
def Obligations.PresetEncWritesTheBlock : Prop :=
  (∀ (r : PresetRecord) (s : State),
    let block : List Byte :=
      [hi8 r.vset, lo8 r.vset, hi8 r.iset, lo8 r.iset, hi8 r.lvp, lo8 r.lvp, hi8 r.ovp, lo8 r.ovp,
       hi8 r.ocp, lo8 r.ocp, hi8 r.opp, lo8 r.opp, hi8 r.oth, lo8 r.oth, hi8 r.otm, lo8 r.otm,
       hi8 (lo16 r.oac), lo8 (lo16 r.oac), hi8 (hi16 r.oac), lo8 (hi16 r.oac),
       hi8 (lo16 r.oae), lo8 (lo16 r.oae), hi8 (hi16 r.oae), lo8 (hi16 r.oae),
       hi8 r.otp, lo8 r.otp, 0x00#8, if r.init then 0x01#8 else 0x00#8]
    exec (.presetEnc r) s = .next { s with reply := .bytes block })
    ∧ presetEnc ⟨1200, 500, 1000, 1300, 620, 1040, 2, 30, 0x00012345, 0x0006789A, 110, true⟩
      = [0x04#8, 0xB0#8, 0x01#8, 0xF4#8, 0x03#8, 0xE8#8, 0x05#8, 0x14#8, 0x02#8, 0x6C#8, 0x04#8, 0x10#8, 0x00#8, 0x02#8,
         0x00#8, 0x1E#8, 0x23#8, 0x45#8, 0x00#8, 0x01#8, 0x78#8, 0x9A#8, 0x00#8, 0x06#8, 0x00#8, 0x6E#8, 0x00#8, 0x01#8]

/-- R128: PRESET_DEC of 28 bytes answers with the record whose fields are the words at offsets 0 to 13, the 32-bit ones low
word first, the flag the low byte of the last word; nothing else changes.
That it is answered also while a command runs is the model's reading, log entry 9. -/
def Obligations.PresetDecReadsTheBlock : Prop :=
  (∀ (b : List Byte) (s : State), b.length = 28 → ∃ r : PresetRecord,
    exec (.presetDec b) s = .next { s with reply := .record r }
      ∧ r.vset = be16 (b.getD 0 0) (b.getD 1 0) ∧ r.iset = be16 (b.getD 2 0) (b.getD 3 0)
      ∧ r.lvp = be16 (b.getD 4 0) (b.getD 5 0) ∧ r.ovp = be16 (b.getD 6 0) (b.getD 7 0)
      ∧ r.ocp = be16 (b.getD 8 0) (b.getD 9 0) ∧ r.opp = be16 (b.getD 10 0) (b.getD 11 0)
      ∧ r.oth = be16 (b.getD 12 0) (b.getD 13 0) ∧ r.otm = be16 (b.getD 14 0) (b.getD 15 0)
      ∧ r.oac.toNat = 65536 * (be16 (b.getD 18 0) (b.getD 19 0)).toNat + (be16 (b.getD 16 0) (b.getD 17 0)).toNat
      ∧ r.oae.toNat = 65536 * (be16 (b.getD 22 0) (b.getD 23 0)).toNat + (be16 (b.getD 20 0) (b.getD 21 0)).toNat
      ∧ r.otp = be16 (b.getD 24 0) (b.getD 25 0) ∧ (r.init = true ↔ b.getD 27 0 ≠ 0))
    ∧ presetDec
        [0x04#8, 0xB0#8, 0x01#8, 0xF4#8, 0x03#8, 0xE8#8, 0x05#8, 0x14#8, 0x02#8, 0x6C#8, 0x04#8, 0x10#8, 0x00#8, 0x02#8,
         0x00#8, 0x1E#8, 0x23#8, 0x45#8, 0x00#8, 0x01#8, 0x78#8, 0x9A#8, 0x00#8, 0x06#8, 0x00#8, 0x6E#8, 0x00#8, 0x01#8]
      = ⟨1200, 500, 1000, 1300, 620, 1040, 2, 30, 0x00012345, 0x0006789A, 110, true⟩

/-- R126: PRESET_ADDR of a slot 0 to 9 answers 0x0050 + 16 × slot and changes nothing else.
That it is answered also while a command runs is the model's reading, log entry 9. -/
def Obligations.PresetAddrIsBasePlusStride : Prop :=
  ∀ (slot : Byte) (s : State), slot.toNat < 10 → ∃ a : Word,
    exec (.presetAddr slot) s = .next { s with reply := .word a } ∧ a.toNat = 0x0050 + 16 * slot.toNat

/-- R49: a preset command's registers are +0 to +13 of its block, none beyond 0x00ED. -/
def Obligations.PresetCommandsStayInsideTheirBlock : Prop :=
  ∀ s : State, s.x4.toNat < 10 →
    (∃ start count, s.request .presetRd = some (.read start count)
      ∧ start.toNat = 0x0050 + 16 * s.x4.toNat ∧ count.toNat = 14 ∧ start.toNat + count.toNat ≤ 0x00ED + 1)
    ∧ (∃ start count n bs, s.request .presetWr = some (.writeN start count n bs)
      ∧ start.toNat = 0x0050 + 16 * s.x4.toNat ∧ count.toNat = 14 ∧ bs.length = 28 ∧ n.toNat = 28
      ∧ start.toNat + count.toNat ≤ 0x00ED + 1)

/-! ### The getters (43_cache_codec.md) -/

/-- GET16 answers the big-endian word of its register and GET_SET_VOLT that of register 0, in every state, running command or
not, and nothing else changes (R122, R125, R44). Register 30 is never written: whatever free value its bytes have. -/
def Obligations.Get16AnswersTheBigEndianWord : Prop :=
  ∀ (s : State),
    (∀ i : Nat, i ≤ 30 → exec (.get16 i) s =
      .next { s with reply := .word (be16 (s.byteAt .cache (2 * i)) (s.byteAt .cache (2 * i + 1))) })
    ∧ exec .getSetVolt s = .next { s with reply := .word (be16 (s.byteAt .cache 0) (s.byteAt .cache 1)) }
    ∧ (s.Inv →
        let v := be16 (Config.unwrittenByte s.epoch .cache 60) (Config.unwrittenByte s.epoch .cache 61)
        exec (.get16 30) s = .next { s with reply := .word v })

/-- GET32 answers low word at `i`, high word at `i + 1`, combined as `(high << 16) | low`, and changes nothing else (R123). -/
def Obligations.Get32CombinesTwoRegisters : Prop :=
  ∀ (s : State) (i : Nat), i ≤ 29 → ∃ v : DWord, exec (.get32 i) s = .next { s with reply := .dword v }
    ∧ v.toNat = 65536 * (be16 (s.byteAt .cache (2 * i + 2)) (s.byteAt .cache (2 * i + 3))).toNat
        + (be16 (s.byteAt .cache (2 * i)) (s.byteAt .cache (2 * i + 1))).toNat

/-- GETFLAG answers whether the low byte of the register is nonzero, whatever the high byte, and changes nothing else (R124). -/
def Obligations.GetflagTestsTheLowByte : Prop :=
  ∀ (s : State) (i : Nat), i ≤ 30 → ∃ b : Bool, exec (.getflag i) s = .next { s with reply := .flag b }
    ∧ (b = true ↔ s.byteAt .cache (2 * i + 1) ≠ 0#8)

/-- An index, slot or length outside the range of its rule is turned away: only the answer changes (R122, R123, R124, R126,
R144; that a refused command leaves a next state is the model's reading, log entry 8). -/
def Obligations.OutOfRangeOperandsAreTurnedAway : Prop :=
  ∀ (s : State) (i : Instr), i.wellFormed = false → s.seq = .idle →
    (match i with
      | .get16 _ | .get32 _ | .getflag _ | .presetAddr _ | .presetDec _ | .setx _ _ | .setdata _ _ => True
      | _ => False) →
    exec i s = .next { s with reply := .refused .range }

/-! ### Configuration, operand loads, status reads (44_config_ops.md) -/

/-- R140: SET_DEVADDR in an idle block writes DEVADDR, any 8-bit value, and nothing else. -/
def Obligations.SetDevaddrWritesTheAddress : Prop :=
  ∀ (s : State) (a : Byte), s.seq = .idle →
    exec (.setDevaddr a) s = .next { s with devaddr := a, reply := .accepted }

/-- R141, R142, R143: each delay command in an idle block writes its register and nothing else, and the value is what a later
transaction hands to `setReadTimeout` or waits in SETTLE. -/
def Obligations.DelayCommandsSetWhatTransactionsUse : Prop :=
  ∀ (s : State) (ms : Word), s.seq = .idle →
    exec (.setTRead ms) s = .next { s with tReadMs := ms, reply := .accepted }
    ∧ exec (.setTWrite ms) s = .next { s with tWriteMs := ms, reply := .accepted }
    ∧ exec (.setTSettle ms) s = .next { s with tSettleMs := ms, reply := .accepted }
    ∧ (∀ t : State, t.seq = .timeout → t.cur.kind = .read → t.tReadMs = ms →
        (seqStep t).link.trace = t.link.trace ++ [.setReadTimeout ms])
    ∧ (∀ t : State, t.seq = .timeout → t.cur.kind ≠ .read → t.tWriteMs = ms →
        (seqStep t).link.trace = t.link.trace ++ [.setReadTimeout ms])
    ∧ (∀ t : State, t.seq = .settle → t.tSettleMs = ms →
        (seqStep t).link.trace = t.link.trace ++ [.delay ms])

/-- SETX in an idle block writes its operand register, truncated to the register's width, and nothing else (R144). -/
def Obligations.SetxWritesOneOperandRegister : Prop :=
  ∀ (s : State) (v : Word), s.seq = .idle →
    exec (.setx 0 v) s = .next { s with x0 := v, reply := .accepted }
    ∧ exec (.setx 1 v) s = .next { s with x1 := v, reply := .accepted }
    ∧ exec (.setx 2 v) s = .next { s with x2 := v, reply := .accepted }
    ∧ exec (.setx 3 v) s = .next { s with x3 := lo8 v, reply := .accepted }
    ∧ exec (.setx 4 v) s = .next { s with x4 := lo8 v, reply := .accepted }

/-- SETDATA in an idle block writes DATA[k], k in 0..27, and no other byte of any memory and nothing else (R144, 10_state.md R11). -/
def Obligations.SetdataWritesOneByte : Prop :=
  ∀ (s : State) (k : Nat) (b : Byte), s.seq = .idle → k ≤ 27 → ∃ t : State,
    exec (.setdata k b) s = .next t
      ∧ (∀ sp a, t.byteAt sp a = if sp = .data ∧ a = k then b else s.byteAt sp a)
      ∧ t = { s with data := t.data, reply := .accepted }

/-- SETPR in an idle block writes one field of PR at its width and no other, and nothing else (R144, 10_state.md R12). A value
wider than the field is truncated, the model's choice (log entry 12). -/
def Obligations.SetprWritesOneField : Prop :=
  ∀ (s : State) (v : DWord), s.seq = .idle →
    let w := lo16 v
    (exec (.setpr .vset v) s = .next { s with pr := { s.pr with vset := w }, reply := .accepted })
    ∧ (exec (.setpr .iset v) s = .next { s with pr := { s.pr with iset := w }, reply := .accepted })
    ∧ (exec (.setpr .lvp v) s = .next { s with pr := { s.pr with lvp := w }, reply := .accepted })
    ∧ (exec (.setpr .ovp v) s = .next { s with pr := { s.pr with ovp := w }, reply := .accepted })
    ∧ (exec (.setpr .ocp v) s = .next { s with pr := { s.pr with ocp := w }, reply := .accepted })
    ∧ (exec (.setpr .opp v) s = .next { s with pr := { s.pr with opp := w }, reply := .accepted })
    ∧ (exec (.setpr .oth v) s = .next { s with pr := { s.pr with oth := w }, reply := .accepted })
    ∧ (exec (.setpr .otm v) s = .next { s with pr := { s.pr with otm := w }, reply := .accepted })
    ∧ (exec (.setpr .oac v) s = .next { s with pr := { s.pr with oac := v }, reply := .accepted })
    ∧ (exec (.setpr .oae v) s = .next { s with pr := { s.pr with oae := v }, reply := .accepted })
    ∧ (exec (.setpr .otp v) s = .next { s with pr := { s.pr with otp := w }, reply := .accepted })
    ∧ (exec (.setpr .init v) s = .next { s with pr := { s.pr with init := v.getLsbD 0 }, reply := .accepted })

/-- GETSTATUS, GETRESULT and GETPR answer in every state and change nothing else: STATUS with BUSY, ERR, CACHE_VALID and
TRANSPORT_PRESENT in its bits, EXC_CODE, RESULT_LEN; the payload when no command runs and the last one succeeded; the twelve
fields of PR (R145, 10_state.md R17, R27, R31). -/
def Obligations.StatusReadsAnswerAtAnyTime : Prop :=
  ∀ s : State,
    (∃ w : BitVec 6, exec .getstatus s = .next { s with reply := .status w s.excCode (BitVec.ofNat 7 s.resultLen.val) }
      ∧ (w.getLsbD 0 = true ↔ s.seq ≠ .idle)
      ∧ w.extractLsb' 1 3 = s.err.bits
      ∧ w.getLsbD 4 = s.cacheValid ∧ w.getLsbD 5 = s.link.present)
    ∧ (∃ bs : List Byte, exec .getresult s = .next { s with reply := .bytes bs } ∧ bs.length = s.resultLen.val
      ∧ (s.seq = .idle → s.err = .ok → ∀ i < s.resultLen.val, bs.getD i 0#8 = s.byteAt .rxbuf (2 + i)))
    ∧ exec .getpr s = .next { s with reply := .record s.pr }

/-! ### The phases (42_transaction.md, 60_exceptions.md) -/

/-- R152: `raise` writes STATUS.ERR, EXC_CODE for a device exception only, and SEQ; nothing else changes. -/
def Obligations.RaiseWritesOnlyTheOutcome : Prop :=
  ∀ (s : State) (e : Failure),
    s.raise e = { s with
      err := match e with
        | .invalidArgument => .invalidArgument
        | .transportUnavailable => .transportUnavailable
        | .transportWriteIncomplete => .transportWriteIncomplete
        | .transportReadIncomplete => .transportReadIncomplete
        | .deviceException _ => .deviceException
        | .checksumMismatch => .checksumMismatch
      excCode := match e with
        | .deviceException code => code
        | _ => s.excCode
      seq := .idle }

/-- R96: a bare command given to an idle block is accepted: CUR.OP, STATUS.ERR, EXC_CODE, RESULT_LEN and SEQ are written and
nothing else; given while a command runs it changes no state. The port and the reply are the model's own fields. -/
def Obligations.AcceptanceStartsTheCommandOrRefusesIt : Prop :=
  ∀ (s : State) (op : TxOp) (rest : List Turn), s.port = .issue op :: rest →
    (s.seq = .idle → ∃ r, step s = .next { s with
      cur := { s.cur with op := op }, err := .ok, excCode := 0, resultLen := 0, seq := .check,
      port := rest, reply := r })
    ∧ (s.seq ≠ .idle → ∃ r, step s = .next { s with port := rest, reply := r })

/-- R97, R98, R153, R154: CHECK raises InvalidArgument exactly on the listed arguments, before any transport operation and
before the transport's presence is looked at; then TransportUnavailable without a transport; else the kind is latched. -/
def Obligations.CheckGateTestsArgumentsThenPresence : Prop :=
  ∀ s : State, s.seq = .check →
    let bad := match s.cur.op with
      | .rdreg => s.x1.toNat < 1 ∨ 30 < s.x1.toNat
      | .wrmul => s.x1.toNat < 1 ∨ 14 < s.x1.toNat ∨ s.x3.toNat ≠ 2 * s.x1.toNat
      | .presetRd | .presetWr => 10 ≤ s.x4.toNat
      | .wrreg | .refresh | .setVolt => False
    (bad → seqStep s = s.raise .invalidArgument)
    ∧ (¬ bad → s.link.present = false →
        seqStep s = State.raise { s with cur := { s.cur with kind := s.cur.op.kind } } .transportUnavailable)
    ∧ (¬ bad → s.link.present = true →
        seqStep s = { s with cur := { s.cur with kind := s.cur.op.kind }, seq := .build })

/-- R99, R101, R90: BUILD writes the frame of the command, with DEVADDR as it stands, into TXBUF and nowhere else, latches its
length and the expected response length 5 + 2 × count, 8 or 8, and goes on; nothing else changes. -/
def Obligations.BuildPhaseAssemblesTheFrame : Prop :=
  ∀ (s : State) (r : Request), s.seq = .build → s.request s.cur.op = some r →
    ∃ f, r.frame s.devaddr = some f
      ∧ (seqStep s).txFrame = f ∧ (seqStep s).cur.txLen.val = f.length
      ∧ (seqStep s).cur.rxLen.val = (match r with
          | .read _ count => 5 + 2 * count.toNat
          | .write1 _ _ => 8
          | .writeN _ _ _ _ => 8)
      ∧ f.getD 0 0#8 = s.devaddr
      ∧ (∀ a, f.length ≤ a → (seqStep s).byteAt .txbuf a = s.byteAt .txbuf a)
      ∧ seqStep s = { s with
          txbuf := (seqStep s).txbuf, cur := (seqStep s).cur, seq := .timeout }
      ∧ (seqStep s).cur.op = s.cur.op ∧ (seqStep s).cur.kind = s.cur.kind

/-- R100: TIMEOUT hands T_READ_MS to `setReadTimeout` for a READ and T_WRITE_MS for the two writes, cannot fail, and changes
nothing of the block but SEQ. -/
def Obligations.TimeoutPhaseSetsTheReadTimeout : Prop :=
  ∀ s : State, s.seq = .timeout →
    (s.cur.kind = .read → seqStep s = { s with link := s.link.setReadTimeout s.tReadMs, seq := .send })
    ∧ (s.cur.kind = .write1 → seqStep s = { s with link := s.link.setReadTimeout s.tWriteMs, seq := .send })
    ∧ (s.cur.kind = .writeN → seqStep s = { s with link := s.link.setReadTimeout s.tWriteMs, seq := .send })

/-- R102, R155: SEND makes one `write` of the CUR.TXLEN bytes of TXBUF; a count different from the frame length, smaller or
larger, raises TransportWriteIncomplete, else SETTLE follows. -/
def Obligations.SendPhaseWritesTheWholeFrameOnce : Prop :=
  ∀ s : State, s.seq = .send →
    (seqStep s).link.trace = s.link.trace ++ [.write (s.bytesAt .txbuf 0 s.cur.txLen.val) s.link.nextCount]
    ∧ (s.link.nextCount ≠ s.cur.txLen.val →
        (seqStep s).err = .transportWriteIncomplete ∧ (seqStep s).seq = .idle ∧ (seqStep s).excCode = s.excCode)
    ∧ (s.link.nextCount = s.cur.txLen.val → (seqStep s).err = s.err ∧ (seqStep s).seq = .settle)
    ∧ seqStep s = { s with link := (seqStep s).link, err := (seqStep s).err, seq := (seqStep s).seq }

/-- R104, R156: RECV asks once for CUR.RXLEN bytes; the m bytes received go to RXBUF[0..m-1] and the rest of RXBUF is
untouched; m less than asked for raises TransportReadIncomplete; what came beyond stays in the transport (10_state.md R34). -/
def Obligations.RecvPhaseStoresWhatArrived : Prop :=
  ∀ s : State, s.seq = .recv →
    let arrived := s.link.held ++ s.link.nextArrivals
    let got := arrived.take s.cur.rxLen.val
    (seqStep s).link.trace = s.link.trace ++ [.readExactly s.cur.rxLen.val got]
    ∧ (seqStep s).link.held = arrived.drop s.cur.rxLen.val
    ∧ (∀ a, (seqStep s).byteAt .rxbuf a = if a < got.length then got.getD a 0#8 else s.byteAt .rxbuf a)
    ∧ (arrived.length < s.cur.rxLen.val →
        (seqStep s).err = .transportReadIncomplete ∧ (seqStep s).seq = .idle ∧ (seqStep s).excCode = s.excCode)
    ∧ (s.cur.rxLen.val ≤ arrived.length → (seqStep s).err = s.err ∧ (seqStep s).seq = .exc)
    ∧ seqStep s = { s with
        link := (seqStep s).link, rxbuf := (seqStep s).rxbuf, err := (seqStep s).err, seq := (seqStep s).seq }

/-- R105, R157: EXC raises DeviceException with RXBUF[2] exactly when bit 7 of RXBUF[1] is set, whatever the checksum and the
low seven bits. -/
def Obligations.ExcPhaseTestsBitSevenOnly : Prop :=
  ∀ s : State, s.seq = .exc →
    ((s.byteAt .rxbuf 1).getLsbD 7 = true →
      seqStep s = { s with err := .deviceException, excCode := s.byteAt .rxbuf 2, seq := .idle })
    ∧ ((s.byteAt .rxbuf 1).getLsbD 7 = false → seqStep s = { s with seq := .crc })

/-- R106, R158, R83: CRC compares CRC16 of all response bytes but the last two with these two, low byte first, all 16 bits. -/
def Obligations.CrcPhaseComparesAllSixteenBits : Prop :=
  ∀ s : State, s.seq = .crc → 2 ≤ s.cur.rxLen.val →
    let len := s.cur.rxLen.val
    (crc16 (s.bytesAt .rxbuf 0 (len - 2)) = be16 (s.byteAt .rxbuf (len - 1)) (s.byteAt .rxbuf (len - 2)) →
      seqStep s = { s with seq := .deliver })
    ∧ (crc16 (s.bytesAt .rxbuf 0 (len - 2)) ≠ be16 (s.byteAt .rxbuf (len - 1)) (s.byteAt .rxbuf (len - 2)) →
      seqStep s = { s with err := .checksumMismatch, seq := .idle })

/-- R107: DELIVER publishes the payload length and OK, and REFRESH alone writes the cache (bytes 0 to 59 from RXBUF[3..62], all
in this step) and CACHE_VALID, PRESET_RD alone PR. -/
def Obligations.DeliverPhasePublishes : Prop :=
  ∀ s : State, s.seq = .deliver →
    (seqStep s).seq = .idle ∧ (seqStep s).err = .ok ∧ (seqStep s).resultLen.val = s.cur.rxLen.val - 4
    ∧ (s.cur.op = .refresh → (seqStep s).cacheValid = true
        ∧ ∀ a, (seqStep s).byteAt .cache a = if a < 60 then s.byteAt .rxbuf (3 + a) else s.byteAt .cache a)
    ∧ (s.cur.op ≠ .refresh → (seqStep s).cacheValid = s.cacheValid ∧ (seqStep s).cache = s.cache)
    ∧ (s.cur.op = .presetRd → (seqStep s).pr = presetDec (s.bytesAt .rxbuf 3 28))
    ∧ (s.cur.op ≠ .presetRd → (seqStep s).pr = s.pr)
    ∧ seqStep s = { s with
        resultLen := (seqStep s).resultLen, err := .ok, seq := .idle,
        cache := (seqStep s).cache, cacheValid := (seqStep s).cacheValid, pr := (seqStep s).pr }

/-- R15, R114: a phase leads to the next one or, a failed gate, straight to IDLE; there is no backward edge, and nine steps
from any phase the sequencer is idle. -/
def Obligations.SequencerOnlyMovesForward : Prop :=
  ∀ s : State,
    (s.seq ≠ .idle → (seqStep s).seq = s.seq.succ ∨ (seqStep s).seq = .idle)
    ∧ (s.seq = .idle → seqStep s = s)
    ∧ (s.seq = .timeout ∨ s.seq = .settle ∨ s.seq = .deliver → (seqStep s).seq = s.seq.succ)
    ∧ (seqStep (seqStep (seqStep (seqStep (seqStep (seqStep (seqStep (seqStep (seqStep s))))))))).seq = .idle

/-! ### Transactions (42_transaction.md, 43_cache_codec.md) -/

/-- R159: a command reports exactly one outcome, that of the first gate that fails in the fixed order InvalidArgument,
TransportUnavailable, TransportWriteIncomplete, TransportReadIncomplete, DeviceException, ChecksumMismatch, else OK; EXC_CODE is
byte 2 of the response for a device exception and 0 otherwise; RESULT_LEN is the payload length on OK and 0 otherwise. -/
def Obligations.OutcomeIsTheFirstFailedGate : Prop :=
  ∀ (s : State) (op : TxOp), s.seq = .idle →
    (s.transact op).seq = .idle ∧ (s.transact op).err = s.verdict op
    ∧ (s.transact op).excCode =
        (if s.verdict op = .deviceException then (s.link.answerTo (s.lenOf op)).getD 2 0#8 else 0#8)
    ∧ (s.transact op).resultLen.val = (if s.verdict op = .ok then s.lenOf op - 4 else 0)

/-- R113, R52: the transport operations of an accepted command are setReadTimeout, write, delay, readExactly in this order, each
at most once, cut where the command ended: none on InvalidArgument and TransportUnavailable, two on TransportWriteIncomplete, all
four otherwise. -/
def Obligations.TraceIsCutWhereTheCommandEnds : Prop :=
  ∀ (s : State) (op : TxOp), s.seq = .idle →
    (s.transact op).link.trace = s.link.trace ++ s.traceOf op

/-- R152, 43_cache_codec.md R121 (b): a command that fails leaves the cache, CACHE_VALID, PR, the operand registers, DATA and the
control registers as they were; one that succeeds and is not REFRESH leaves the cache too. -/
def Obligations.FailureLeavesLocalStateAlone : Prop :=
  ∀ (s : State) (op : TxOp), s.seq = .idle →
    SameOperands s (s.transact op) ∧ SameBytes .data s (s.transact op) ∧ SameAroundTransaction s (s.transact op)
    ∧ (s.verdict op ≠ .ok ∨ op ≠ .refresh →
        (s.transact op).cache = s.cache ∧ (s.transact op).cacheValid = s.cacheValid)
    ∧ (s.verdict op ≠ .ok ∨ op ≠ .presetRd → (s.transact op).pr = s.pr)

/-- R95: the outcome, EXC_CODE, RESULT_LEN, the payload and the transport operations of a command are a function of the operand
and control registers (and PR, DATA) at acceptance and of the transport's answers; nothing else enters: not the cache, not the
scratch buffers, not the outcome of the previous command. -/
def Obligations.OutcomeDependsOnOperandsAndTransportOnly : Prop :=
  ∀ (s t : State) (op : TxOp), s.seq = .idle → t.seq = .idle →
    SameOperands s t → SameControl s t → t.pr = s.pr → SameBytes .data s t →
    t.link.present = s.link.present → t.link.nextCount = s.link.nextCount →
    (∀ len, t.link.answerTo len = s.link.answerTo len) →
    (t.transact op).err = (s.transact op).err ∧ (t.transact op).excCode = (s.transact op).excCode
    ∧ (t.transact op).resultLen = (s.transact op).resultLen ∧ (t.transact op).resultBytes = (s.transact op).resultBytes
    ∧ ∃ ops, (s.transact op).link.trace = s.link.trace ++ ops ∧ (t.transact op).link.trace = t.link.trace ++ ops

/-- A transaction command given with its operands as if immediate is the host's loads, the bare command and nine steps of the
sequencer, one turn each (30_encoding.md R73, 42_transaction.md R95, R96): the blocking call and the phase-by-phase machine are
one. -/
def Obligations.ImmediateCommandIsLoadsIssueAndPhases : Prop :=
  ∀ (s : State) (i : Instr) (ts : List Turn), s.seq = .idle → i.turns = some ts →
    Host.Core.run Sys2Proof.core (ts.length + 9)
      { s with port := ts ++ List.replicate 9 .tick ++ s.port } = exec i s

/-- RDREG on a legal count, the transport taking the frame and delivering a good response: OK, register k of the read at RXBUF
bytes 3 + 2k and 4 + 2k, payload of 1 + 2 × count bytes; x[0] and x[1] are what the host gave; the cache, PR and all else
unchanged (42_transaction.md R110, R61, R64). -/
def Obligations.RdregReadsRegisters : Prop :=
  ∀ (s : State) (start count : Word),
    let f := appendCrc [s.devaddr, 0x03#8, hi8 start, lo8 start, hi8 count, lo8 count]
    let len := 5 + 2 * count.toNat
    1 ≤ count.toNat → count.toNat ≤ 30 → s.Ready f len →
    ∃ t, exec (.rdreg start count) s = .next t
      ∧ TransactionDone s t s.tReadMs f (s.link.answerTo len) ∧ t.resultLen.val = 1 + 2 * count.toNat
      ∧ t.x0 = start ∧ t.x1 = count ∧ t.x2 = s.x2 ∧ t.x3 = s.x3 ∧ t.x4 = s.x4 ∧ t.pr = s.pr
      ∧ t.cacheValid = s.cacheValid ∧ SameBytes .cache s t ∧ SameBytes .data s t

/-- WRREG and SET_VOLT, the transport taking the frame and delivering an 8-byte response with the right checksum, whatever it
echoes: OK, payload of 4 bytes; SET_VOLT writes register 0x0000; the cache keeps the last snapshot (42_transaction.md R111,
43_cache_codec.md R132, 20_memory.md R54). -/
def Obligations.WrregAndSetVoltWriteOneRegister : Prop :=
  ∀ (s : State) (reg value : Word),
    let f := appendCrc [s.devaddr, 0x06#8, hi8 reg, lo8 reg, hi8 value, lo8 value]
    let g := appendCrc [s.devaddr, 0x06#8, 0x00#8, 0x00#8, hi8 value, lo8 value]
    (s.Ready f 8 →
      ∃ t, exec (.wrreg reg value) s = .next t
        ∧ TransactionDone s t s.tWriteMs f (s.link.answerTo 8) ∧ t.resultLen.val = 4
        ∧ t.x0 = reg ∧ t.x1 = s.x1 ∧ t.x2 = value ∧ t.x3 = s.x3 ∧ t.x4 = s.x4 ∧ t.pr = s.pr
        ∧ t.cacheValid = s.cacheValid ∧ SameBytes .cache s t ∧ SameBytes .data s t)
    ∧ (s.Ready g 8 →
      ∃ t, exec (.setVolt value) s = .next t
        ∧ TransactionDone s t s.tWriteMs g (s.link.answerTo 8) ∧ t.resultLen.val = 4
        ∧ t.x0 = s.x0 ∧ t.x1 = s.x1 ∧ t.x2 = value ∧ t.x3 = s.x3 ∧ t.x4 = s.x4 ∧ t.pr = s.pr
        ∧ t.cacheValid = s.cacheValid ∧ SameBytes .cache s t ∧ SameBytes .data s t)

/-- WRMUL on a legal count and byte count with that many data bytes: the frame carries them unchanged and in order; OK, payload of
4 bytes; the data stand in DATA from byte 0 on (42_transaction.md R112, 41_frame_builder.md R88). -/
def Obligations.WrmulWritesRegisters : Prop :=
  ∀ (s : State) (start count : Word) (n : Byte) (bs : List Byte),
    let f := appendCrc ([s.devaddr, 0x10#8, hi8 start, lo8 start, hi8 count, lo8 count, n] ++ bs)
    1 ≤ count.toNat → count.toNat ≤ 14 → n.toNat = 2 * count.toNat → bs.length = n.toNat → s.Ready f 8 →
    ∃ t, exec (.wrmul start count n bs) s = .next t
      ∧ TransactionDone s t s.tWriteMs f (s.link.answerTo 8) ∧ t.resultLen.val = 4
      ∧ t.x0 = start ∧ t.x1 = count ∧ t.x2 = s.x2 ∧ t.x3 = n ∧ t.x4 = s.x4 ∧ t.pr = s.pr
      ∧ t.cacheValid = s.cacheValid ∧ SameBytes .cache s t
      ∧ ∀ a, t.byteAt .data a = if a < bs.length then bs.getD a 0#8 else s.byteAt .data a

/-- REFRESH with a good 65-byte response: bytes 0 to 59 of the cache are bytes 3 to 62 of the response, bytes 60 and 61 as they
were, CACHE_VALID is set, payload of 61 bytes, no operand register touched (43_cache_codec.md R120, 10_state.md R32). -/
def Obligations.RefreshFillsTheCache : Prop :=
  ∀ s : State,
    let f := appendCrc [s.devaddr, 0x03#8, 0x00#8, 0x00#8, 0x00#8, 0x1E#8]
    let ans := s.link.answerTo 65
    s.Ready f 65 →
    ∃ t, exec .refresh s = .next t
      ∧ TransactionDone s t s.tReadMs f ans ∧ t.resultLen.val = 61
      ∧ SameOperands s t ∧ t.pr = s.pr ∧ t.cacheValid = true ∧ SameBytes .data s t
      ∧ ∀ a, t.byteAt .cache a = if a < 60 then ans.getD (3 + a) 0#8 else s.byteAt .cache a

/-- PRESET_RD of a slot 0 to 9 with a good 33-byte response: PR is the decoding of bytes 3 to 30, the cache is untouched
(43_cache_codec.md R130). -/
def Obligations.PresetRdFillsThePresetRecord : Prop :=
  ∀ (s : State) (slot : Byte),
    let addr := 0x0050#16 + 16#16 * slot.setWidth 16
    let f := appendCrc [s.devaddr, 0x03#8, hi8 addr, lo8 addr, 0x00#8, 0x0E#8]
    let ans := s.link.answerTo 33
    slot.toNat < 10 → s.Ready f 33 →
    ∃ t, exec (.presetRd slot) s = .next t
      ∧ TransactionDone s t s.tReadMs f ans ∧ t.resultLen.val = 29
      ∧ t.pr = presetDec ((ans.drop 3).take 28)
      ∧ t.x0 = s.x0 ∧ t.x1 = s.x1 ∧ t.x2 = s.x2 ∧ t.x3 = s.x3 ∧ t.x4 = slot
      ∧ t.cacheValid = s.cacheValid ∧ SameBytes .cache s t ∧ SameBytes .data s t

/-- PRESET_WR of a slot 0 to 9: the 37-byte frame carries PRESET_ENC(PR); DATA, x[1] and x[3] are neither read nor written; PR and
the cache are unchanged (43_cache_codec.md R131). -/
def Obligations.PresetWrSendsThePresetRecord : Prop :=
  ∀ (s : State) (slot : Byte),
    let addr := 0x0050#16 + 16#16 * slot.setWidth 16
    let f := appendCrc ([s.devaddr, 0x10#8, hi8 addr, lo8 addr, 0x00#8, 0x0E#8, 0x1C#8] ++ presetEnc s.pr)
    slot.toNat < 10 → s.Ready f 8 →
    ∃ t, exec (.presetWr slot) s = .next t
      ∧ TransactionDone s t s.tWriteMs f (s.link.answerTo 8) ∧ t.resultLen.val = 4 ∧ f.length = 37
      ∧ t.x0 = s.x0 ∧ t.x1 = s.x1 ∧ t.x2 = s.x2 ∧ t.x3 = s.x3 ∧ t.x4 = slot ∧ t.pr = s.pr
      ∧ t.cacheValid = s.cacheValid ∧ SameBytes .cache s t ∧ SameBytes .data s t

/-- Leftover bytes: what came beyond the expected length stays in the transport and is what the next response begins with
(70_reset_and_hazards.md R180, 10_state.md R34). -/
def Obligations.LeftoverBytesComeFirstNextTime : Prop :=
  ∀ (s : State) (op : TxOp) (len : Nat), s.seq = .idle →
    s.verdict op ≠ .invalidArgument → s.verdict op ≠ .transportUnavailable → s.verdict op ≠ .transportWriteIncomplete →
    let left := ((s.link.held ++ (s.link.write []).nextArrivals).drop (s.lenOf op))
    (s.transact op).link.held = left
      ∧ ((s.transact op).link.answerTo len).take left.length = left.take len

/-! ### Responses (30_encoding.md R64 to R67) -/

/-- RSP-R reaching a READ that waits for it, its length as expected, its checksum right, whatever its address, its low function
bits and its byte count: the command ends OK with the payload published, REFRESH fills the cache from the register data,
PRESET_RD fills PR, RDREG touches neither (42_transaction.md R107, R109). -/
def Obligations.RspRDeliversTheRegisterData : Prop :=
  ∀ (s : State) (addr : Byte) (func : BitVec 7) (n : Byte) (bs : List Byte) (crc : Word),
    s.seq = .recv → s.link.held = [] → s.cur.rxLen.val = 5 + bs.length →
    crc = crc16 ([addr, responseFunc false func, n] ++ bs) →
    ∃ t, exec (.rspR addr func n bs crc) s = .next t
      ∧ t.seq = .idle ∧ t.err = .ok ∧ t.resultLen.val = 1 + bs.length ∧ t.resultBytes = n :: bs
      ∧ (s.cur.op = .refresh → t.cacheValid = true
          ∧ (60 ≤ bs.length → ∀ a < 60, t.byteAt .cache a = bs.getD a 0#8)
          ∧ ∀ a, 60 ≤ a → t.byteAt .cache a = s.byteAt .cache a)
      ∧ (s.cur.op ≠ .refresh → t.cacheValid = s.cacheValid ∧ SameBytes .cache s t)
      ∧ (s.cur.op = .presetRd → 28 ≤ bs.length → t.pr = presetDec (bs.take 28))
      ∧ (s.cur.op ≠ .presetRd → t.pr = s.pr)
      ∧ SameOperands s t ∧ SameBytes .data s t ∧ SameBytes .txbuf s t ∧ SameAroundTransaction s t
      ∧ t.excCode = s.excCode ∧ t.cur = s.cur ∧ ∀ a, 5 + bs.length ≤ a → t.byteAt .rxbuf a = s.byteAt .rxbuf a

/-- RSP-W1 and RSP-WN reaching a write that waits for them, the checksum right, whatever they echo: the command ends OK with the
four echoed bytes as its payload; the cache and PR are unchanged (42_transaction.md R107, R109). -/
def Obligations.RspW1AndRspWnAcknowledgeTheWrite : Prop :=
  ∀ (s : State) (addr : Byte) (func : BitVec 7) (a b crc : Word),
    s.seq = .recv → s.link.held = [] → s.cur.rxLen.val = 8 → s.cur.op ≠ .refresh → s.cur.op ≠ .presetRd →
    crc = crc16 [addr, responseFunc false func, hi8 a, lo8 a, hi8 b, lo8 b] →
    ∃ t, exec (.rspW1 addr func a b crc) s = .next t ∧ exec (.rspWn addr func a b crc) s = .next t
      ∧ t.seq = .idle ∧ t.err = .ok ∧ t.resultLen.val = 4 ∧ t.resultBytes = [hi8 a, lo8 a, hi8 b, lo8 b]
      ∧ t.cacheValid = s.cacheValid ∧ SameBytes .cache s t ∧ t.pr = s.pr
      ∧ SameOperands s t ∧ SameBytes .data s t ∧ SameBytes .txbuf s t ∧ SameAroundTransaction s t
      ∧ t.excCode = s.excCode ∧ t.cur = s.cur ∧ ∀ c, 8 ≤ c → t.byteAt .rxbuf c = s.byteAt .rxbuf c

/-- RSP-X reaching a command that waits: with enough bytes after it the command ends in DeviceException and EXC_CODE is its code,
the checksum not examined; a bare one, shorter than every expected length, ends in TransportReadIncomplete. The cache, PR and the
operands are unchanged either way (42_transaction.md R105, 60_exceptions.md R157, R156, 70 R179). -/
def Obligations.RspXReportsTheDeviceException : Prop :=
  ∀ (s : State) (addr : Byte) (func : BitVec 7) (e : Byte) (crc : Word) (tail : List Byte),
    s.seq = .recv → s.link.held = [] → 7 ≤ s.cur.rxLen.val →
    ∃ t, exec (.rspX addr func e crc tail) s = .next t ∧ t.seq = .idle
      ∧ (s.cur.rxLen.val ≤ 5 + tail.length → t.err = .deviceException ∧ t.excCode = e)
      ∧ (5 + tail.length < s.cur.rxLen.val → t.err = .transportReadIncomplete ∧ t.excCode = s.excCode)
      ∧ t.resultLen = s.resultLen ∧ t.cacheValid = s.cacheValid ∧ t.cache = s.cache ∧ t.pr = s.pr
      ∧ SameOperands s t ∧ t.data = s.data ∧ t.txbuf = s.txbuf ∧ SameAroundTransaction s t ∧ t.cur = s.cur
      ∧ ∀ a, t.byteAt .rxbuf a = if a < min s.cur.rxLen.val (5 + tail.length)
          then (responseX addr func e crc tail).getD a 0#8 else s.byteAt .rxbuf a

/-- A response that reaches a block not waiting for one is held by the transport, in arrival order, and changes nothing else
(10_state.md R34, 70 R180; log entry 6). -/
def Obligations.EarlyOrLateResponsesAreHeld : Prop :=
  ∀ (s : State) (i : Instr) (pr : PresetRecord) (frame : List Byte),
    i.isResponse = true → s.seq ≠ .recv → encode s.devaddr pr i = some frame →
    exec i s = .next { s with link := { s.link with held := s.link.held ++ frame } }

/-- A response given as an instruction is the same bytes arriving during the wait and four steps of the sequencer; only the
model's draw counter tells them apart (42_transaction.md R104 to R107; log entry 6). -/
def Obligations.ResponseIsArrivalAndFourSteps : Prop :=
  ∀ (s : State) (i : Instr) (pr : PresetRecord) (frame : List Byte),
    i.isResponse = true → s.seq = .recv → encode s.devaddr pr i = some frame →
    ∃ t, exec i s = .next t
      ∧ seqStep (seqStep (seqStep (seqStep { s with link := { s.link with arrivals := frame :: s.link.arrivals } })))
          = { t with link := { t.link with draws := t.link.draws + 1 } }

/-! ### The whole machine -/

/-- The machine's step takes the next turn: a well-formed or ill-formed instruction alike is executed, the turn used up; and an
opcode-table word placed with `withFetchWord` is what the very next step runs. -/
def Obligations.StepRunsTheNextInstruction : Prop :=
  (∀ (s : State) (i : Instr) (rest : List Turn), s.port = .instr i :: rest → step s = exec i { s with port := rest })
    ∧ ∀ (s : State) (nbits w : Nat) (i : Instr), decodeTableWord nbits w = some i →
        step (s.withFetchWord nbits w) = exec i s

/-- While a command runs, no host command disturbs it: reads are answered, every other one is refused, and only the answer
changes (42_transaction.md R96, 44 preamble, R146; V6). That the pure functions are answered meanwhile is the model's reading,
log entry 9. -/
def Obligations.HostCannotDisturbARunningCommand : Prop :=
  ∀ (s : State) (i : Instr), s.seq ≠ .idle → i.isResponse = false →
    ∃ r, exec i s = .next { s with reply := r } ∧ (i.isRead = false → r = .refused .busy)

/-- R20: DEVADDR changes only by SET_DEVADDR in an idle block, or by the reset event, which makes it 1. -/
def Obligations.OnlySetDevaddrChangesTheAddress : Prop :=
  ∀ s t : State, step s = .next t →
    t.devaddr = s.devaddr
    ∨ (∃ a rest, s.port = .instr (.setDevaddr a) :: rest ∧ s.seq = .idle ∧ t.devaddr = a)
    ∨ (∃ rest, s.port = .reset :: rest ∧ t.devaddr = 1#8)

/-- R121, R32, R55, R25: a step either leaves every byte of the cache and CACHE_VALID alone, or it is the DELIVER of a REFRESH that
ends OK and writes bytes 0 to 59 together from the response, or it is the reset event; bytes 60 and 61 are never written, and
CACHE_VALID is never cleared except by reset. -/
def Obligations.OnlyASuccessfulRefreshChangesTheCache : Prop :=
  ∀ s t : State, step s = .next t →
    (t.cache = s.cache ∧ t.cacheValid = s.cacheValid)
    ∨ (t.cur.op = .refresh ∧ t.seq = .idle ∧ t.err = .ok ∧ t.cacheValid = true
        ∧ (∀ a < 60, t.byteAt .cache a = t.byteAt .rxbuf (3 + a)) ∧ ∀ a, 60 ≤ a → t.byteAt .cache a = s.byteAt .cache a)
    ∨ (∃ rest, s.port = .reset :: rest)

/-- R10, R26: a step of the sequencer and a bare command leave the operand registers, DATA and TRANSPORT_PRESENT alone, and no
step of any kind changes TRANSPORT_PRESENT. -/
def Obligations.NoCommandWritesAnOperandRegister : Prop :=
  (∀ s t : State, step s = .next t → t.link.present = s.link.present)
    ∧ ∀ s t : State, step s = .next t →
        (s.port = [] ∨ (∃ rest, s.port = .tick :: rest) ∨ (∃ op rest, s.port = .issue op :: rest)) →
        SameOperands s t ∧ t.data = s.data

/-- The invariant is kept by every step, from every state that has it: canonical memories with CACHE[60..61] unwritten, status
registers that agree with one another (R18, R19, R24), CACHE_VALID telling what the cache holds (R25), and a running command whose
latched context and passed gates hold (R15, R16, R99). -/
def Obligations.EveryStepKeepsTheInvariant : Prop :=
  ∀ s t : State, s.Inv → step s = .next t → t.Inv

/-- The invariant holds right after reset. -/
def Obligations.InvariantHoldsAtReset : Prop := State.reset.Inv

/-- R36, R171: what reset leaves, the values the spec gives, and the idle block waits: with no turn waiting a step changes
nothing. -/
def Obligations.ResetLeavesTheSpecifiedValues : Prop :=
  State.reset.seq = .idle ∧ State.reset.err = .ok ∧ State.reset.excCode = 0#8 ∧ State.reset.resultLen.val = 0
    ∧ State.reset.cacheValid = false ∧ State.reset.devaddr = 1#8 ∧ State.reset.tReadMs = 10#16
    ∧ State.reset.tWriteMs = 40#16 ∧ State.reset.tSettleMs = 5#16 ∧ State.reset.busy = false
    ∧ ∀ s : State, s.seq = .idle → s.port = [] → step s = .next s

/-- R170, R36: the reset event gives the registers whose reset value the spec states that value, in whatever phase it strikes.
That it leaves the transport and the coming turns alone is the model's reading (log entry 14), and that each byte of the
memories is a free value again is the model's form of "unspecified" (log entry 4). -/
def Obligations.ResetEventReinitialisesTheBlock : Prop :=
  ∀ (s : State) (rest : List Turn), s.port = .reset :: rest → ∃ t, step s = .next t
    ∧ t.seq = .idle ∧ t.err = .ok ∧ t.excCode = 0#8 ∧ t.resultLen.val = 0 ∧ t.cacheValid = false ∧ t.devaddr = 1#8
    ∧ t.tReadMs = 10#16 ∧ t.tWriteMs = 40#16 ∧ t.tSettleMs = 5#16 ∧ t.link = s.link ∧ t.port = rest
    ∧ ∀ sp a, t.byteAt sp a = Config.unwrittenByte (s.epoch + 1) sp a
end

