-- ==== Sys2Proof/Laws/Bytes.lean ====
section
/-!
SUPPORT. The laws of splitting words into bytes and putting them together (20_memory.md R41 to R44).
-/

namespace Sys2Proof

theorem hi8_toNat (w : Word) : (hi8 w).toNat = w.toNat / 256 := by
  have := w.isLt
  simp only [hi8, BitVec.extractLsb'_toNat, Nat.shiftRight_eq_div_pow]; omega

theorem lo8_toNat (w : Word) : (lo8 w).toNat = w.toNat % 256 := by
  simp [lo8, BitVec.extractLsb'_toNat]

theorem hi16_toNat (v : DWord) : (hi16 v).toNat = v.toNat / 65536 := by
  have := v.isLt
  simp only [hi16, BitVec.extractLsb'_toNat, Nat.shiftRight_eq_div_pow]; omega

theorem lo16_toNat (v : DWord) : (lo16 v).toNat = v.toNat % 65536 := by
  simp [lo16, BitVec.extractLsb'_toNat]

theorem be16_toNat (a b : Byte) : (be16 a b).toNat = 256 * a.toNat + b.toNat := by
  have ha := a.isLt
  have hb := b.isLt
  simp only [be16, BitVec.toNat_or, BitVec.toNat_shiftLeft, BitVec.toNat_setWidth]
  rw [Nat.mod_eq_of_lt (a := a.toNat) (by omega), Nat.mod_eq_of_lt (a := b.toNat) (by omega),
    Nat.mod_eq_of_lt (a := a.toNat <<< 8) (by rw [Nat.shiftLeft_eq]; omega),
    ← Nat.shiftLeft_add_eq_or_of_lt (b := b.toNat) (i := 8) (by omega), Nat.shiftLeft_eq]
  omega

theorem dword_toNat (a b : Word) : (dword a b).toNat = 65536 * a.toNat + b.toNat := by
  have ha := a.isLt
  have hb := b.isLt
  simp only [dword, BitVec.toNat_or, BitVec.toNat_shiftLeft, BitVec.toNat_setWidth]
  rw [Nat.mod_eq_of_lt (a := a.toNat) (by omega), Nat.mod_eq_of_lt (a := b.toNat) (by omega),
    Nat.mod_eq_of_lt (a := a.toNat <<< 16) (by rw [Nat.shiftLeft_eq]; omega),
    ← Nat.shiftLeft_add_eq_or_of_lt (b := b.toNat) (i := 16) (by omega), Nat.shiftLeft_eq]
  omega

@[simp] theorem lo8_be16 (a b : Byte) : lo8 (be16 a b) = b := by
  have := b.isLt
  apply BitVec.eq_of_toNat_eq; rw [lo8_toNat, be16_toNat]; omega

@[simp] theorem hi8_be16 (a b : Byte) : hi8 (be16 a b) = a := by
  have := b.isLt
  apply BitVec.eq_of_toNat_eq; rw [hi8_toNat, be16_toNat]; omega

@[simp] theorem be16_hi8_lo8 (w : Word) : be16 (hi8 w) (lo8 w) = w := by
  apply BitVec.eq_of_toNat_eq; rw [be16_toNat, hi8_toNat, lo8_toNat]; omega

@[simp] theorem lo16_dword (a b : Word) : lo16 (dword a b) = b := by
  have := b.isLt
  apply BitVec.eq_of_toNat_eq; rw [lo16_toNat, dword_toNat]; omega

@[simp] theorem hi16_dword (a b : Word) : hi16 (dword a b) = a := by
  have := b.isLt
  apply BitVec.eq_of_toNat_eq; rw [hi16_toNat, dword_toNat]; omega

@[simp] theorem dword_hi16_lo16 (v : DWord) : dword (hi16 v) (lo16 v) = v := by
  apply BitVec.eq_of_toNat_eq; rw [dword_toNat, hi16_toNat, lo16_toNat]; omega

@[simp] theorem wordBytes_length (w : Word) : (wordBytes w).length = 2 := rfl

/-- Two bytes determine a word. -/
theorem be16_inj {a b c d : Byte} : be16 a b = be16 c d ↔ a = c ∧ b = d := by
  constructor
  · intro h
    exact ⟨by rw [← hi8_be16 a b, h, hi8_be16], by rw [← lo8_be16 a b, h, lo8_be16]⟩
  · rintro ⟨rfl, rfl⟩; rfl

/-- Two bytes compared one by one are two words compared. -/
theorem bytes_differ_iff (c : Word) (a b : Byte) : (lo8 c ≠ b ∨ hi8 c ≠ a) ↔ c ≠ be16 a b := by
  constructor
  · rintro h rfl; simp at h
  · intro h
    by_contra hc
    push Not at hc
    exact h (by rw [← hc.1, ← hc.2, be16_hi8_lo8])

end Sys2Proof
end

