-- ==== Sys2Proof/Laws/Checksum.lean ====
section
/-!
SUPPORT. The laws of the Checksum Engine: runs compose, and what the check of step 6 says of a frame
(40_checksum.md R80 to R83).
-/

namespace Sys2Proof

theorem crcRun_append (c : Word) (h k : List Byte) : crcRun c (h ++ k) = crcRun (crcRun c h) k := by
  induction h generalizing c with
  | nil => rfl
  | cons b h ih => exact ih _

@[simp] theorem crcBytes_length (h : List Byte) : (crcBytes h).length = 2 := rfl

@[simp] theorem appendCrc_length (h : List Byte) : (appendCrc h).length = h.length + 2 := by
  simp [appendCrc]

/-- The check of step 6 compares all 16 bits (R83). -/
theorem crcMatches_append (h : List Byte) (a b : Byte) : crcMatches (h ++ [a, b]) = true ↔ crc16 h = be16 b a := by
  have e : (h ++ [a, b]).length - 2 = h.length := by simp
  rw [crcMatches, e, List.drop_left, List.take_left, beq_iff_eq, crcBytes]
  constructor
  · intro h'
    simp only [List.cons.injEq, and_true] at h'
    rw [h'.1, h'.2, be16_hi8_lo8]
  · intro h'; simp [h']

/-- A frame closed by the builder passes it (R82). -/
theorem crcMatches_appendCrc (h : List Byte) : crcMatches (appendCrc h) = true := by
  rw [appendCrc, crcBytes, crcMatches_append]; simp

/-- A frame of at least two bytes is the bytes before the checksum and the two of the checksum. -/
theorem split_crc (r : List Byte) (h : 2 ≤ r.length) :
    r = r.take (r.length - 2) ++ [r.getD (r.length - 2) 0#8, r.getD (r.length - 1) 0#8] := by
  have e : r.drop (r.length - 2) = [r.getD (r.length - 2) 0#8, r.getD (r.length - 1) 0#8] := by
    rw [List.drop_eq_getElem_cons (by omega), List.drop_eq_getElem_cons (by omega), List.drop_eq_nil_of_le (by omega)]
    simp only [List.getD_eq_getElem?_getD]
    rw [List.getElem?_eq_getElem (by omega), List.getElem?_eq_getElem (by omega)]
    simp [show r.length - 2 + 1 = r.length - 1 by omega]
  rw [← e, List.take_append_drop]

/-- The check of step 6 on a frame of at least two bytes (R83). -/
theorem crcMatches_iff (r : List Byte) (h : 2 ≤ r.length) :
    crcMatches r = true ↔
      crc16 (r.take (r.length - 2)) = be16 (r.getD (r.length - 1) 0#8) (r.getD (r.length - 2) 0#8) := by
  conv_lhs => rw [split_crc r h]
  exact crcMatches_append _ _ _

end Sys2Proof
end

