-- ==== Sys2Proof/Laws/Frames.lean ====
section
/-!
SUPPORT. The function-code byte of a response: what `responseFunc` puts together comes apart again, and the test of
bit 7 is the test of `EXC_BIT` (00_scope.md R5, 30_encoding.md R67, R69).
-/

namespace Sys2Proof

/-- Testing bit 7 is masking with `EXC_BIT`. -/
theorem excBit_set_iff (b : Byte) : b.getLsbD 7 = true ↔ b &&& Config.excBit ≠ 0#8 := by
  revert b; decide

/-- The function-code byte as bits: `EXC_BIT` above the seven low bits. -/
theorem responseFunc_eq_append (exc : Bool) (func : BitVec 7) : responseFunc exc func = BitVec.ofBool exc ++ func := by
  revert exc func; decide

@[simp] theorem responseFunc_msb (exc : Bool) (func : BitVec 7) : (responseFunc exc func).msb = exc := by
  revert exc func; decide

@[simp] theorem responseFunc_bit7 (exc : Bool) (func : BitVec 7) : (responseFunc exc func).getLsbD 7 = exc := by
  revert exc func; decide

@[simp] theorem responseFunc_low (exc : Bool) (func : BitVec 7) : (responseFunc exc func).setWidth 7 = func := by
  revert exc func; decide

/-- A function-code byte is put together from its own parts. -/
theorem responseFunc_parts (b : Byte) : responseFunc b.msb (b.setWidth 7) = b := by
  revert b; decide

end Sys2Proof
end

