-- ==== Sys2Proof/Laws/State.lean ====
section
/-!
SUPPORT. One lemma per field of State per named update: what each update writes and what it leaves alone. Proofs cite
these (they are the simp set) and never unfold a record update.
-/

namespace Sys2Proof.Machine

/-! ### raise -/

@[simp] theorem State.raise_x0 (s : State) (e : Failure) : (s.raise e).x0 = s.x0 := rfl
@[simp] theorem State.raise_x1 (s : State) (e : Failure) : (s.raise e).x1 = s.x1 := rfl
@[simp] theorem State.raise_x2 (s : State) (e : Failure) : (s.raise e).x2 = s.x2 := rfl
@[simp] theorem State.raise_x3 (s : State) (e : Failure) : (s.raise e).x3 = s.x3 := rfl
@[simp] theorem State.raise_x4 (s : State) (e : Failure) : (s.raise e).x4 = s.x4 := rfl
@[simp] theorem State.raise_data (s : State) (e : Failure) : (s.raise e).data = s.data := rfl
@[simp] theorem State.raise_pr (s : State) (e : Failure) : (s.raise e).pr = s.pr := rfl
@[simp] theorem State.raise_seq (s : State) (e : Failure) : (s.raise e).seq = .idle := rfl
@[simp] theorem State.raise_cur (s : State) (e : Failure) : (s.raise e).cur = s.cur := rfl
@[simp] theorem State.raise_err (s : State) (e : Failure) : (s.raise e).err = e.code := rfl
@[simp] theorem State.raise_excCode (s : State) (e : Failure) : (s.raise e).excCode = e.excCode s.excCode := rfl
@[simp] theorem State.raise_cacheValid (s : State) (e : Failure) : (s.raise e).cacheValid = s.cacheValid := rfl
@[simp] theorem State.raise_devaddr (s : State) (e : Failure) : (s.raise e).devaddr = s.devaddr := rfl
@[simp] theorem State.raise_tReadMs (s : State) (e : Failure) : (s.raise e).tReadMs = s.tReadMs := rfl
@[simp] theorem State.raise_tWriteMs (s : State) (e : Failure) : (s.raise e).tWriteMs = s.tWriteMs := rfl
@[simp] theorem State.raise_tSettleMs (s : State) (e : Failure) : (s.raise e).tSettleMs = s.tSettleMs := rfl
@[simp] theorem State.raise_resultLen (s : State) (e : Failure) : (s.raise e).resultLen = s.resultLen := rfl
@[simp] theorem State.raise_txbuf (s : State) (e : Failure) : (s.raise e).txbuf = s.txbuf := rfl
@[simp] theorem State.raise_rxbuf (s : State) (e : Failure) : (s.raise e).rxbuf = s.rxbuf := rfl
@[simp] theorem State.raise_cache (s : State) (e : Failure) : (s.raise e).cache = s.cache := rfl
@[simp] theorem State.raise_link (s : State) (e : Failure) : (s.raise e).link = s.link := rfl
@[simp] theorem State.raise_port (s : State) (e : Failure) : (s.raise e).port = s.port := rfl
@[simp] theorem State.raise_reply (s : State) (e : Failure) : (s.raise e).reply = s.reply := rfl
@[simp] theorem State.raise_epoch (s : State) (e : Failure) : (s.raise e).epoch = s.epoch := rfl

/-! ### answer -/

@[simp] theorem State.answer_x0 (s : State) (r : Reply) : (s.answer r).x0 = s.x0 := rfl
@[simp] theorem State.answer_x1 (s : State) (r : Reply) : (s.answer r).x1 = s.x1 := rfl
@[simp] theorem State.answer_x2 (s : State) (r : Reply) : (s.answer r).x2 = s.x2 := rfl
@[simp] theorem State.answer_x3 (s : State) (r : Reply) : (s.answer r).x3 = s.x3 := rfl
@[simp] theorem State.answer_x4 (s : State) (r : Reply) : (s.answer r).x4 = s.x4 := rfl
@[simp] theorem State.answer_data (s : State) (r : Reply) : (s.answer r).data = s.data := rfl
@[simp] theorem State.answer_pr (s : State) (r : Reply) : (s.answer r).pr = s.pr := rfl
@[simp] theorem State.answer_seq (s : State) (r : Reply) : (s.answer r).seq = s.seq := rfl
@[simp] theorem State.answer_cur (s : State) (r : Reply) : (s.answer r).cur = s.cur := rfl
@[simp] theorem State.answer_err (s : State) (r : Reply) : (s.answer r).err = s.err := rfl
@[simp] theorem State.answer_excCode (s : State) (r : Reply) : (s.answer r).excCode = s.excCode := rfl
@[simp] theorem State.answer_cacheValid (s : State) (r : Reply) : (s.answer r).cacheValid = s.cacheValid := rfl
@[simp] theorem State.answer_devaddr (s : State) (r : Reply) : (s.answer r).devaddr = s.devaddr := rfl
@[simp] theorem State.answer_tReadMs (s : State) (r : Reply) : (s.answer r).tReadMs = s.tReadMs := rfl
@[simp] theorem State.answer_tWriteMs (s : State) (r : Reply) : (s.answer r).tWriteMs = s.tWriteMs := rfl
@[simp] theorem State.answer_tSettleMs (s : State) (r : Reply) : (s.answer r).tSettleMs = s.tSettleMs := rfl
@[simp] theorem State.answer_resultLen (s : State) (r : Reply) : (s.answer r).resultLen = s.resultLen := rfl
@[simp] theorem State.answer_txbuf (s : State) (r : Reply) : (s.answer r).txbuf = s.txbuf := rfl
@[simp] theorem State.answer_rxbuf (s : State) (r : Reply) : (s.answer r).rxbuf = s.rxbuf := rfl
@[simp] theorem State.answer_cache (s : State) (r : Reply) : (s.answer r).cache = s.cache := rfl
@[simp] theorem State.answer_link (s : State) (r : Reply) : (s.answer r).link = s.link := rfl
@[simp] theorem State.answer_port (s : State) (r : Reply) : (s.answer r).port = s.port := rfl
@[simp] theorem State.answer_reply (s : State) (r : Reply) : (s.answer r).reply = r := rfl
@[simp] theorem State.answer_epoch (s : State) (r : Reply) : (s.answer r).epoch = s.epoch := rfl

/-! ### turnAway -/

@[simp] theorem State.turnAway_x0 (s : State) (w : TurnedAway) : (s.turnAway w).x0 = s.x0 := rfl
@[simp] theorem State.turnAway_x1 (s : State) (w : TurnedAway) : (s.turnAway w).x1 = s.x1 := rfl
@[simp] theorem State.turnAway_x2 (s : State) (w : TurnedAway) : (s.turnAway w).x2 = s.x2 := rfl
@[simp] theorem State.turnAway_x3 (s : State) (w : TurnedAway) : (s.turnAway w).x3 = s.x3 := rfl
@[simp] theorem State.turnAway_x4 (s : State) (w : TurnedAway) : (s.turnAway w).x4 = s.x4 := rfl
@[simp] theorem State.turnAway_data (s : State) (w : TurnedAway) : (s.turnAway w).data = s.data := rfl
@[simp] theorem State.turnAway_pr (s : State) (w : TurnedAway) : (s.turnAway w).pr = s.pr := rfl
@[simp] theorem State.turnAway_seq (s : State) (w : TurnedAway) : (s.turnAway w).seq = s.seq := rfl
@[simp] theorem State.turnAway_cur (s : State) (w : TurnedAway) : (s.turnAway w).cur = s.cur := rfl
@[simp] theorem State.turnAway_err (s : State) (w : TurnedAway) : (s.turnAway w).err = s.err := rfl
@[simp] theorem State.turnAway_excCode (s : State) (w : TurnedAway) : (s.turnAway w).excCode = s.excCode := rfl
@[simp] theorem State.turnAway_cacheValid (s : State) (w : TurnedAway) : (s.turnAway w).cacheValid = s.cacheValid := rfl
@[simp] theorem State.turnAway_devaddr (s : State) (w : TurnedAway) : (s.turnAway w).devaddr = s.devaddr := rfl
@[simp] theorem State.turnAway_tReadMs (s : State) (w : TurnedAway) : (s.turnAway w).tReadMs = s.tReadMs := rfl
@[simp] theorem State.turnAway_tWriteMs (s : State) (w : TurnedAway) : (s.turnAway w).tWriteMs = s.tWriteMs := rfl
@[simp] theorem State.turnAway_tSettleMs (s : State) (w : TurnedAway) : (s.turnAway w).tSettleMs = s.tSettleMs := rfl
@[simp] theorem State.turnAway_resultLen (s : State) (w : TurnedAway) : (s.turnAway w).resultLen = s.resultLen := rfl
@[simp] theorem State.turnAway_txbuf (s : State) (w : TurnedAway) : (s.turnAway w).txbuf = s.txbuf := rfl
@[simp] theorem State.turnAway_rxbuf (s : State) (w : TurnedAway) : (s.turnAway w).rxbuf = s.rxbuf := rfl
@[simp] theorem State.turnAway_cache (s : State) (w : TurnedAway) : (s.turnAway w).cache = s.cache := rfl
@[simp] theorem State.turnAway_link (s : State) (w : TurnedAway) : (s.turnAway w).link = s.link := rfl
@[simp] theorem State.turnAway_port (s : State) (w : TurnedAway) : (s.turnAway w).port = s.port := rfl
@[simp] theorem State.turnAway_reply (s : State) (w : TurnedAway) : (s.turnAway w).reply = .refused w := rfl
@[simp] theorem State.turnAway_epoch (s : State) (w : TurnedAway) : (s.turnAway w).epoch = s.epoch := rfl

/-! ### accept -/

@[simp] theorem State.accept_x0 (s : State) (op : TxOp) : (s.accept op).x0 = s.x0 := rfl
@[simp] theorem State.accept_x1 (s : State) (op : TxOp) : (s.accept op).x1 = s.x1 := rfl
@[simp] theorem State.accept_x2 (s : State) (op : TxOp) : (s.accept op).x2 = s.x2 := rfl
@[simp] theorem State.accept_x3 (s : State) (op : TxOp) : (s.accept op).x3 = s.x3 := rfl
@[simp] theorem State.accept_x4 (s : State) (op : TxOp) : (s.accept op).x4 = s.x4 := rfl
@[simp] theorem State.accept_data (s : State) (op : TxOp) : (s.accept op).data = s.data := rfl
@[simp] theorem State.accept_pr (s : State) (op : TxOp) : (s.accept op).pr = s.pr := rfl
@[simp] theorem State.accept_seq (s : State) (op : TxOp) : (s.accept op).seq = .check := rfl
@[simp] theorem State.accept_cur (s : State) (op : TxOp) : (s.accept op).cur = { s.cur with op := op } := rfl
@[simp] theorem State.accept_err (s : State) (op : TxOp) : (s.accept op).err = .ok := rfl
@[simp] theorem State.accept_excCode (s : State) (op : TxOp) : (s.accept op).excCode = 0 := rfl
@[simp] theorem State.accept_cacheValid (s : State) (op : TxOp) : (s.accept op).cacheValid = s.cacheValid := rfl
@[simp] theorem State.accept_devaddr (s : State) (op : TxOp) : (s.accept op).devaddr = s.devaddr := rfl
@[simp] theorem State.accept_tReadMs (s : State) (op : TxOp) : (s.accept op).tReadMs = s.tReadMs := rfl
@[simp] theorem State.accept_tWriteMs (s : State) (op : TxOp) : (s.accept op).tWriteMs = s.tWriteMs := rfl
@[simp] theorem State.accept_tSettleMs (s : State) (op : TxOp) : (s.accept op).tSettleMs = s.tSettleMs := rfl
@[simp] theorem State.accept_resultLen (s : State) (op : TxOp) : (s.accept op).resultLen = 0 := rfl
@[simp] theorem State.accept_txbuf (s : State) (op : TxOp) : (s.accept op).txbuf = s.txbuf := rfl
@[simp] theorem State.accept_rxbuf (s : State) (op : TxOp) : (s.accept op).rxbuf = s.rxbuf := rfl
@[simp] theorem State.accept_cache (s : State) (op : TxOp) : (s.accept op).cache = s.cache := rfl
@[simp] theorem State.accept_link (s : State) (op : TxOp) : (s.accept op).link = s.link := rfl
@[simp] theorem State.accept_port (s : State) (op : TxOp) : (s.accept op).port = s.port := rfl
@[simp] theorem State.accept_reply (s : State) (op : TxOp) : (s.accept op).reply = s.reply := rfl
@[simp] theorem State.accept_epoch (s : State) (op : TxOp) : (s.accept op).epoch = s.epoch := rfl

/-! ### withSpace -/

@[simp] theorem State.withSpace_x0 (s : State) (sp : Space) (m : Memory) : (s.withSpace sp m).x0 = s.x0 := by cases sp <;> rfl
@[simp] theorem State.withSpace_x1 (s : State) (sp : Space) (m : Memory) : (s.withSpace sp m).x1 = s.x1 := by cases sp <;> rfl
@[simp] theorem State.withSpace_x2 (s : State) (sp : Space) (m : Memory) : (s.withSpace sp m).x2 = s.x2 := by cases sp <;> rfl
@[simp] theorem State.withSpace_x3 (s : State) (sp : Space) (m : Memory) : (s.withSpace sp m).x3 = s.x3 := by cases sp <;> rfl
@[simp] theorem State.withSpace_x4 (s : State) (sp : Space) (m : Memory) : (s.withSpace sp m).x4 = s.x4 := by cases sp <;> rfl
@[simp] theorem State.withSpace_pr (s : State) (sp : Space) (m : Memory) : (s.withSpace sp m).pr = s.pr := by cases sp <;> rfl
@[simp] theorem State.withSpace_seq (s : State) (sp : Space) (m : Memory) : (s.withSpace sp m).seq = s.seq := by cases sp <;> rfl
@[simp] theorem State.withSpace_cur (s : State) (sp : Space) (m : Memory) : (s.withSpace sp m).cur = s.cur := by cases sp <;> rfl
@[simp] theorem State.withSpace_err (s : State) (sp : Space) (m : Memory) : (s.withSpace sp m).err = s.err := by cases sp <;> rfl
@[simp] theorem State.withSpace_excCode (s : State) (sp : Space) (m : Memory) : (s.withSpace sp m).excCode = s.excCode := by cases sp <;> rfl
@[simp] theorem State.withSpace_cacheValid (s : State) (sp : Space) (m : Memory) : (s.withSpace sp m).cacheValid = s.cacheValid := by cases sp <;> rfl
@[simp] theorem State.withSpace_devaddr (s : State) (sp : Space) (m : Memory) : (s.withSpace sp m).devaddr = s.devaddr := by cases sp <;> rfl
@[simp] theorem State.withSpace_tReadMs (s : State) (sp : Space) (m : Memory) : (s.withSpace sp m).tReadMs = s.tReadMs := by cases sp <;> rfl
@[simp] theorem State.withSpace_tWriteMs (s : State) (sp : Space) (m : Memory) : (s.withSpace sp m).tWriteMs = s.tWriteMs := by cases sp <;> rfl
@[simp] theorem State.withSpace_tSettleMs (s : State) (sp : Space) (m : Memory) : (s.withSpace sp m).tSettleMs = s.tSettleMs := by cases sp <;> rfl
@[simp] theorem State.withSpace_resultLen (s : State) (sp : Space) (m : Memory) : (s.withSpace sp m).resultLen = s.resultLen := by cases sp <;> rfl
@[simp] theorem State.withSpace_link (s : State) (sp : Space) (m : Memory) : (s.withSpace sp m).link = s.link := by cases sp <;> rfl
@[simp] theorem State.withSpace_port (s : State) (sp : Space) (m : Memory) : (s.withSpace sp m).port = s.port := by cases sp <;> rfl
@[simp] theorem State.withSpace_reply (s : State) (sp : Space) (m : Memory) : (s.withSpace sp m).reply = s.reply := by cases sp <;> rfl
@[simp] theorem State.withSpace_epoch (s : State) (sp : Space) (m : Memory) : (s.withSpace sp m).epoch = s.epoch := by cases sp <;> rfl

/-! ### store -/

@[simp] theorem State.store_x0 (s : State) (sp : Space) (a : Nat) (bs : List Byte) : (s.store sp a bs).x0 = s.x0 := by cases sp <;> rfl
@[simp] theorem State.store_x1 (s : State) (sp : Space) (a : Nat) (bs : List Byte) : (s.store sp a bs).x1 = s.x1 := by cases sp <;> rfl
@[simp] theorem State.store_x2 (s : State) (sp : Space) (a : Nat) (bs : List Byte) : (s.store sp a bs).x2 = s.x2 := by cases sp <;> rfl
@[simp] theorem State.store_x3 (s : State) (sp : Space) (a : Nat) (bs : List Byte) : (s.store sp a bs).x3 = s.x3 := by cases sp <;> rfl
@[simp] theorem State.store_x4 (s : State) (sp : Space) (a : Nat) (bs : List Byte) : (s.store sp a bs).x4 = s.x4 := by cases sp <;> rfl
@[simp] theorem State.store_pr (s : State) (sp : Space) (a : Nat) (bs : List Byte) : (s.store sp a bs).pr = s.pr := by cases sp <;> rfl
@[simp] theorem State.store_seq (s : State) (sp : Space) (a : Nat) (bs : List Byte) : (s.store sp a bs).seq = s.seq := by cases sp <;> rfl
@[simp] theorem State.store_cur (s : State) (sp : Space) (a : Nat) (bs : List Byte) : (s.store sp a bs).cur = s.cur := by cases sp <;> rfl
@[simp] theorem State.store_err (s : State) (sp : Space) (a : Nat) (bs : List Byte) : (s.store sp a bs).err = s.err := by cases sp <;> rfl
@[simp] theorem State.store_excCode (s : State) (sp : Space) (a : Nat) (bs : List Byte) : (s.store sp a bs).excCode = s.excCode := by cases sp <;> rfl
@[simp] theorem State.store_cacheValid (s : State) (sp : Space) (a : Nat) (bs : List Byte) : (s.store sp a bs).cacheValid = s.cacheValid := by cases sp <;> rfl
@[simp] theorem State.store_devaddr (s : State) (sp : Space) (a : Nat) (bs : List Byte) : (s.store sp a bs).devaddr = s.devaddr := by cases sp <;> rfl
@[simp] theorem State.store_tReadMs (s : State) (sp : Space) (a : Nat) (bs : List Byte) : (s.store sp a bs).tReadMs = s.tReadMs := by cases sp <;> rfl
@[simp] theorem State.store_tWriteMs (s : State) (sp : Space) (a : Nat) (bs : List Byte) : (s.store sp a bs).tWriteMs = s.tWriteMs := by cases sp <;> rfl
@[simp] theorem State.store_tSettleMs (s : State) (sp : Space) (a : Nat) (bs : List Byte) : (s.store sp a bs).tSettleMs = s.tSettleMs := by cases sp <;> rfl
@[simp] theorem State.store_resultLen (s : State) (sp : Space) (a : Nat) (bs : List Byte) : (s.store sp a bs).resultLen = s.resultLen := by cases sp <;> rfl
@[simp] theorem State.store_link (s : State) (sp : Space) (a : Nat) (bs : List Byte) : (s.store sp a bs).link = s.link := by cases sp <;> rfl
@[simp] theorem State.store_port (s : State) (sp : Space) (a : Nat) (bs : List Byte) : (s.store sp a bs).port = s.port := by cases sp <;> rfl
@[simp] theorem State.store_reply (s : State) (sp : Space) (a : Nat) (bs : List Byte) : (s.store sp a bs).reply = s.reply := by cases sp <;> rfl
@[simp] theorem State.store_epoch (s : State) (sp : Space) (a : Nat) (bs : List Byte) : (s.store sp a bs).epoch = s.epoch := by cases sp <;> rfl

/-! ### loadData -/

@[simp] theorem State.loadData_x0 (s : State) (bs : List Byte) : (s.loadData bs).x0 = s.x0 := rfl
@[simp] theorem State.loadData_x1 (s : State) (bs : List Byte) : (s.loadData bs).x1 = s.x1 := rfl
@[simp] theorem State.loadData_x2 (s : State) (bs : List Byte) : (s.loadData bs).x2 = s.x2 := rfl
@[simp] theorem State.loadData_x3 (s : State) (bs : List Byte) : (s.loadData bs).x3 = s.x3 := rfl
@[simp] theorem State.loadData_x4 (s : State) (bs : List Byte) : (s.loadData bs).x4 = s.x4 := rfl
@[simp] theorem State.loadData_data (s : State) (bs : List Byte) : (s.loadData bs).data = s.data.writeAll 0 (bs.take (Config.spaceSize .data)) := rfl
@[simp] theorem State.loadData_pr (s : State) (bs : List Byte) : (s.loadData bs).pr = s.pr := rfl
@[simp] theorem State.loadData_seq (s : State) (bs : List Byte) : (s.loadData bs).seq = s.seq := rfl
@[simp] theorem State.loadData_cur (s : State) (bs : List Byte) : (s.loadData bs).cur = s.cur := rfl
@[simp] theorem State.loadData_err (s : State) (bs : List Byte) : (s.loadData bs).err = s.err := rfl
@[simp] theorem State.loadData_excCode (s : State) (bs : List Byte) : (s.loadData bs).excCode = s.excCode := rfl
@[simp] theorem State.loadData_cacheValid (s : State) (bs : List Byte) : (s.loadData bs).cacheValid = s.cacheValid := rfl
@[simp] theorem State.loadData_devaddr (s : State) (bs : List Byte) : (s.loadData bs).devaddr = s.devaddr := rfl
@[simp] theorem State.loadData_tReadMs (s : State) (bs : List Byte) : (s.loadData bs).tReadMs = s.tReadMs := rfl
@[simp] theorem State.loadData_tWriteMs (s : State) (bs : List Byte) : (s.loadData bs).tWriteMs = s.tWriteMs := rfl
@[simp] theorem State.loadData_tSettleMs (s : State) (bs : List Byte) : (s.loadData bs).tSettleMs = s.tSettleMs := rfl
@[simp] theorem State.loadData_resultLen (s : State) (bs : List Byte) : (s.loadData bs).resultLen = s.resultLen := rfl
@[simp] theorem State.loadData_txbuf (s : State) (bs : List Byte) : (s.loadData bs).txbuf = s.txbuf := rfl
@[simp] theorem State.loadData_rxbuf (s : State) (bs : List Byte) : (s.loadData bs).rxbuf = s.rxbuf := rfl
@[simp] theorem State.loadData_cache (s : State) (bs : List Byte) : (s.loadData bs).cache = s.cache := rfl
@[simp] theorem State.loadData_link (s : State) (bs : List Byte) : (s.loadData bs).link = s.link := rfl
@[simp] theorem State.loadData_port (s : State) (bs : List Byte) : (s.loadData bs).port = s.port := rfl
@[simp] theorem State.loadData_reply (s : State) (bs : List Byte) : (s.loadData bs).reply = s.reply := rfl
@[simp] theorem State.loadData_epoch (s : State) (bs : List Byte) : (s.loadData bs).epoch = s.epoch := rfl

/-! ### setX -/

@[simp] theorem State.setX_data (s : State) (i : Nat) (v : Word) : (s.setX i v).data = s.data := by unfold State.setX; split <;> rfl
@[simp] theorem State.setX_pr (s : State) (i : Nat) (v : Word) : (s.setX i v).pr = s.pr := by unfold State.setX; split <;> rfl
@[simp] theorem State.setX_seq (s : State) (i : Nat) (v : Word) : (s.setX i v).seq = s.seq := by unfold State.setX; split <;> rfl
@[simp] theorem State.setX_cur (s : State) (i : Nat) (v : Word) : (s.setX i v).cur = s.cur := by unfold State.setX; split <;> rfl
@[simp] theorem State.setX_err (s : State) (i : Nat) (v : Word) : (s.setX i v).err = s.err := by unfold State.setX; split <;> rfl
@[simp] theorem State.setX_excCode (s : State) (i : Nat) (v : Word) : (s.setX i v).excCode = s.excCode := by unfold State.setX; split <;> rfl
@[simp] theorem State.setX_cacheValid (s : State) (i : Nat) (v : Word) : (s.setX i v).cacheValid = s.cacheValid := by unfold State.setX; split <;> rfl
@[simp] theorem State.setX_devaddr (s : State) (i : Nat) (v : Word) : (s.setX i v).devaddr = s.devaddr := by unfold State.setX; split <;> rfl
@[simp] theorem State.setX_tReadMs (s : State) (i : Nat) (v : Word) : (s.setX i v).tReadMs = s.tReadMs := by unfold State.setX; split <;> rfl
@[simp] theorem State.setX_tWriteMs (s : State) (i : Nat) (v : Word) : (s.setX i v).tWriteMs = s.tWriteMs := by unfold State.setX; split <;> rfl
@[simp] theorem State.setX_tSettleMs (s : State) (i : Nat) (v : Word) : (s.setX i v).tSettleMs = s.tSettleMs := by unfold State.setX; split <;> rfl
@[simp] theorem State.setX_resultLen (s : State) (i : Nat) (v : Word) : (s.setX i v).resultLen = s.resultLen := by unfold State.setX; split <;> rfl
@[simp] theorem State.setX_txbuf (s : State) (i : Nat) (v : Word) : (s.setX i v).txbuf = s.txbuf := by unfold State.setX; split <;> rfl
@[simp] theorem State.setX_rxbuf (s : State) (i : Nat) (v : Word) : (s.setX i v).rxbuf = s.rxbuf := by unfold State.setX; split <;> rfl
@[simp] theorem State.setX_cache (s : State) (i : Nat) (v : Word) : (s.setX i v).cache = s.cache := by unfold State.setX; split <;> rfl
@[simp] theorem State.setX_link (s : State) (i : Nat) (v : Word) : (s.setX i v).link = s.link := by unfold State.setX; split <;> rfl
@[simp] theorem State.setX_port (s : State) (i : Nat) (v : Word) : (s.setX i v).port = s.port := by unfold State.setX; split <;> rfl
@[simp] theorem State.setX_reply (s : State) (i : Nat) (v : Word) : (s.setX i v).reply = s.reply := by unfold State.setX; split <;> rfl
@[simp] theorem State.setX_epoch (s : State) (i : Nat) (v : Word) : (s.setX i v).epoch = s.epoch := by unfold State.setX; split <;> rfl

/-! ### resetEvent -/

@[simp] theorem State.resetEvent_x0 (s : State) : (s.resetEvent).x0 = State.reset.x0 := rfl
@[simp] theorem State.resetEvent_x1 (s : State) : (s.resetEvent).x1 = State.reset.x1 := rfl
@[simp] theorem State.resetEvent_x2 (s : State) : (s.resetEvent).x2 = State.reset.x2 := rfl
@[simp] theorem State.resetEvent_x3 (s : State) : (s.resetEvent).x3 = State.reset.x3 := rfl
@[simp] theorem State.resetEvent_x4 (s : State) : (s.resetEvent).x4 = State.reset.x4 := rfl
@[simp] theorem State.resetEvent_data (s : State) : (s.resetEvent).data = State.reset.data := rfl
@[simp] theorem State.resetEvent_pr (s : State) : (s.resetEvent).pr = State.reset.pr := rfl
@[simp] theorem State.resetEvent_seq (s : State) : (s.resetEvent).seq = State.reset.seq := rfl
@[simp] theorem State.resetEvent_cur (s : State) : (s.resetEvent).cur = State.reset.cur := rfl
@[simp] theorem State.resetEvent_err (s : State) : (s.resetEvent).err = State.reset.err := rfl
@[simp] theorem State.resetEvent_excCode (s : State) : (s.resetEvent).excCode = State.reset.excCode := rfl
@[simp] theorem State.resetEvent_cacheValid (s : State) : (s.resetEvent).cacheValid = State.reset.cacheValid := rfl
@[simp] theorem State.resetEvent_devaddr (s : State) : (s.resetEvent).devaddr = State.reset.devaddr := rfl
@[simp] theorem State.resetEvent_tReadMs (s : State) : (s.resetEvent).tReadMs = State.reset.tReadMs := rfl
@[simp] theorem State.resetEvent_tWriteMs (s : State) : (s.resetEvent).tWriteMs = State.reset.tWriteMs := rfl
@[simp] theorem State.resetEvent_tSettleMs (s : State) : (s.resetEvent).tSettleMs = State.reset.tSettleMs := rfl
@[simp] theorem State.resetEvent_resultLen (s : State) : (s.resetEvent).resultLen = State.reset.resultLen := rfl
@[simp] theorem State.resetEvent_txbuf (s : State) : (s.resetEvent).txbuf = State.reset.txbuf := rfl
@[simp] theorem State.resetEvent_rxbuf (s : State) : (s.resetEvent).rxbuf = State.reset.rxbuf := rfl
@[simp] theorem State.resetEvent_cache (s : State) : (s.resetEvent).cache = State.reset.cache := rfl
@[simp] theorem State.resetEvent_link (s : State) : (s.resetEvent).link = s.link := rfl
@[simp] theorem State.resetEvent_port (s : State) : (s.resetEvent).port = s.port := rfl
@[simp] theorem State.resetEvent_reply (s : State) : (s.resetEvent).reply = State.reset.reply := rfl
@[simp] theorem State.resetEvent_epoch (s : State) : (s.resetEvent).epoch = s.epoch + 1 := rfl

/-! ### setX, register by register -/

@[simp] theorem State.setX_0_x0 (s : State) (v : Word) : (s.setX 0 v).x0 = v := rfl
@[simp] theorem State.setX_0_x1 (s : State) (v : Word) : (s.setX 0 v).x1 = s.x1 := rfl
@[simp] theorem State.setX_0_x2 (s : State) (v : Word) : (s.setX 0 v).x2 = s.x2 := rfl
@[simp] theorem State.setX_0_x3 (s : State) (v : Word) : (s.setX 0 v).x3 = s.x3 := rfl
@[simp] theorem State.setX_0_x4 (s : State) (v : Word) : (s.setX 0 v).x4 = s.x4 := rfl
@[simp] theorem State.setX_1_x0 (s : State) (v : Word) : (s.setX 1 v).x0 = s.x0 := rfl
@[simp] theorem State.setX_1_x1 (s : State) (v : Word) : (s.setX 1 v).x1 = v := rfl
@[simp] theorem State.setX_1_x2 (s : State) (v : Word) : (s.setX 1 v).x2 = s.x2 := rfl
@[simp] theorem State.setX_1_x3 (s : State) (v : Word) : (s.setX 1 v).x3 = s.x3 := rfl
@[simp] theorem State.setX_1_x4 (s : State) (v : Word) : (s.setX 1 v).x4 = s.x4 := rfl
@[simp] theorem State.setX_2_x0 (s : State) (v : Word) : (s.setX 2 v).x0 = s.x0 := rfl
@[simp] theorem State.setX_2_x1 (s : State) (v : Word) : (s.setX 2 v).x1 = s.x1 := rfl
@[simp] theorem State.setX_2_x2 (s : State) (v : Word) : (s.setX 2 v).x2 = v := rfl
@[simp] theorem State.setX_2_x3 (s : State) (v : Word) : (s.setX 2 v).x3 = s.x3 := rfl
@[simp] theorem State.setX_2_x4 (s : State) (v : Word) : (s.setX 2 v).x4 = s.x4 := rfl
@[simp] theorem State.setX_3_x0 (s : State) (v : Word) : (s.setX 3 v).x0 = s.x0 := rfl
@[simp] theorem State.setX_3_x1 (s : State) (v : Word) : (s.setX 3 v).x1 = s.x1 := rfl
@[simp] theorem State.setX_3_x2 (s : State) (v : Word) : (s.setX 3 v).x2 = s.x2 := rfl
@[simp] theorem State.setX_3_x3 (s : State) (v : Word) : (s.setX 3 v).x3 = v.setWidth 8 := rfl
@[simp] theorem State.setX_3_x4 (s : State) (v : Word) : (s.setX 3 v).x4 = s.x4 := rfl
@[simp] theorem State.setX_4_x0 (s : State) (v : Word) : (s.setX 4 v).x0 = s.x0 := rfl
@[simp] theorem State.setX_4_x1 (s : State) (v : Word) : (s.setX 4 v).x1 = s.x1 := rfl
@[simp] theorem State.setX_4_x2 (s : State) (v : Word) : (s.setX 4 v).x2 = s.x2 := rfl
@[simp] theorem State.setX_4_x3 (s : State) (v : Word) : (s.setX 4 v).x3 = s.x3 := rfl
@[simp] theorem State.setX_4_x4 (s : State) (v : Word) : (s.setX 4 v).x4 = v.setWidth 8 := rfl

/-! ### memories after a write to one of them -/

theorem State.withSpace_space (s : State) (sp q : Space) (m : Memory) :
    (s.withSpace sp m).space q = if q = sp then m else s.space q := by
  cases sp <;> cases q <;> rfl

@[simp] theorem State.withSpace_space_self (s : State) (sp : Space) (m : Memory) :
    (s.withSpace sp m).space sp = m := by cases sp <;> rfl

theorem State.store_space (s : State) (sp q : Space) (a : Nat) (bs : List Byte) :
    (s.store sp a bs).space q = if q = sp then (s.space sp).writeAll a bs else s.space q :=
  State.withSpace_space s sp q _

@[simp] theorem State.store_data_data (s : State) (a : Nat) (bs : List Byte) : (s.store .data a bs).data = s.data.writeAll a bs := rfl
@[simp] theorem State.store_data_txbuf (s : State) (a : Nat) (bs : List Byte) : (s.store .data a bs).txbuf = s.txbuf := rfl
@[simp] theorem State.store_data_rxbuf (s : State) (a : Nat) (bs : List Byte) : (s.store .data a bs).rxbuf = s.rxbuf := rfl
@[simp] theorem State.store_data_cache (s : State) (a : Nat) (bs : List Byte) : (s.store .data a bs).cache = s.cache := rfl
@[simp] theorem State.store_txbuf_data (s : State) (a : Nat) (bs : List Byte) : (s.store .txbuf a bs).data = s.data := rfl
@[simp] theorem State.store_txbuf_txbuf (s : State) (a : Nat) (bs : List Byte) : (s.store .txbuf a bs).txbuf = s.txbuf.writeAll a bs := rfl
@[simp] theorem State.store_txbuf_rxbuf (s : State) (a : Nat) (bs : List Byte) : (s.store .txbuf a bs).rxbuf = s.rxbuf := rfl
@[simp] theorem State.store_txbuf_cache (s : State) (a : Nat) (bs : List Byte) : (s.store .txbuf a bs).cache = s.cache := rfl
@[simp] theorem State.store_rxbuf_data (s : State) (a : Nat) (bs : List Byte) : (s.store .rxbuf a bs).data = s.data := rfl
@[simp] theorem State.store_rxbuf_txbuf (s : State) (a : Nat) (bs : List Byte) : (s.store .rxbuf a bs).txbuf = s.txbuf := rfl
@[simp] theorem State.store_rxbuf_rxbuf (s : State) (a : Nat) (bs : List Byte) : (s.store .rxbuf a bs).rxbuf = s.rxbuf.writeAll a bs := rfl
@[simp] theorem State.store_rxbuf_cache (s : State) (a : Nat) (bs : List Byte) : (s.store .rxbuf a bs).cache = s.cache := rfl
@[simp] theorem State.store_cache_data (s : State) (a : Nat) (bs : List Byte) : (s.store .cache a bs).data = s.data := rfl
@[simp] theorem State.store_cache_txbuf (s : State) (a : Nat) (bs : List Byte) : (s.store .cache a bs).txbuf = s.txbuf := rfl
@[simp] theorem State.store_cache_rxbuf (s : State) (a : Nat) (bs : List Byte) : (s.store .cache a bs).rxbuf = s.rxbuf := rfl
@[simp] theorem State.store_cache_cache (s : State) (a : Nat) (bs : List Byte) : (s.store .cache a bs).cache = s.cache.writeAll a bs := rfl

/-! ### the memories of a state, by name -/

@[simp] theorem State.space_data (s : State) : s.space .data = s.data := rfl
@[simp] theorem State.space_txbuf (s : State) : s.space .txbuf = s.txbuf := rfl
@[simp] theorem State.space_rxbuf (s : State) : s.space .rxbuf = s.rxbuf := rfl
@[simp] theorem State.space_cache (s : State) : s.space .cache = s.cache := rfl

/-- A byte depends on its memory and the reset epoch alone. -/
theorem State.byteAt_congr {s t : State} (sp : Space) (a : Nat) (hm : t.space sp = s.space sp) (he : t.epoch = s.epoch) :
    t.byteAt sp a = s.byteAt sp a := by
  simp only [State.byteAt, hm, he]

/-- So do several. -/
theorem State.bytesAt_congr {s t : State} (sp : Space) (hm : t.space sp = s.space sp) (he : t.epoch = s.epoch) :
    ∀ (n a : Nat), t.bytesAt sp a n = s.bytesAt sp a n
  | 0, _ => rfl
  | n + 1, a => by simp only [State.bytesAt, State.byteAt_congr sp a hm he, State.bytesAt_congr sp hm he n (a + 1)]

@[simp] theorem State.bytesAt_length (s : State) (sp : Space) : ∀ (n a : Nat), (s.bytesAt sp a n).length = n
  | 0, _ => rfl
  | n + 1, a => by simp only [State.bytesAt, List.length_cons, State.bytesAt_length s sp n (a + 1)]

end Sys2Proof.Machine
end

