-- ==== Sys2Proof/Laws/Memory.lean ====
section
/-!
SUPPORT. The laws of the byte memories: a read after a write, every write keeps the canonical form, and what a store
leaves of every memory of a state.
-/

namespace Sys2Proof.Machine

/-! ### One memory -/

theorem Memory.read?_write (m : Memory) (a : Nat) (v : Byte) (b : Nat) :
    (m.write a v).read? b = if b = a then some v else m.read? b := by
  induction m with
  | nil => simp only [Memory.write, Memory.read?, eq_comm]
  | cons c m ih =>
    obtain ⟨k, w⟩ := c
    simp only [Memory.write]
    split
    · simp only [Memory.read?, eq_comm]
    · split
      · next h => subst h; simp only [Memory.read?]; split <;> simp_all [eq_comm]
      · simp only [Memory.read?, ih]; split <;> split <;> simp_all

/-- A byte of a memory after a multi-byte write. -/
theorem Memory.read?_writeAll (bs : List Byte) : ∀ (m : Memory) (a b : Nat),
    (m.writeAll a bs).read? b = if a ≤ b ∧ b < a + bs.length then bs[b - a]? else m.read? b := by
  induction bs with
  | nil => intro m a b; simp [Memory.writeAll]
  | cons x bs ih =>
    intro m a b
    rw [Memory.writeAll, ih, Memory.read?_write, List.length_cons]
    by_cases h : b = a
    · subst h; simp
    · by_cases h' : a + 1 ≤ b ∧ b < a + 1 + bs.length
      · rw [if_pos h', if_pos (by omega), show b - a = (b - (a + 1)) + 1 by omega, List.getElem?_cons_succ]
      · rw [if_neg h', if_neg h, if_neg (by omega)]

theorem Memory.mem_write {m : Memory} {a : Nat} {v : Byte} {c : Host.Cell} (h : c ∈ m.write a v) :
    c = (a, v) ∨ c ∈ m := by
  induction m with
  | nil => exact .inl (by simpa [Memory.write] using h)
  | cons d m ih =>
    obtain ⟨k, w⟩ := d
    simp only [Memory.write] at h
    split at h
    · rcases List.mem_cons.1 h with h | h
      exacts [.inl h, .inr h]
    · split at h
      · rcases List.mem_cons.1 h with h | h
        exacts [.inl h, .inr (List.mem_cons_of_mem _ h)]
      · rcases List.mem_cons.1 h with h | h
        · exact .inr (h ▸ List.mem_cons_self ..)
        · exact (ih h).imp_right (List.mem_cons_of_mem _)

theorem Memory.wf_write {size : Nat} {m : Memory} (h : m.wf size) {a : Nat} (ha : a < size) (v : Byte) :
    (m.write a v).wf size := by
  refine ⟨?_, fun c hc => (Memory.mem_write hc).elim (fun e => e ▸ ha) (h.2 c)⟩
  obtain ⟨h, -⟩ := h
  induction m with
  | nil => simp [Memory.write]
  | cons d m ih =>
    obtain ⟨k, w⟩ := d
    have hk := List.pairwise_cons.1 h
    simp only [Memory.write]
    split
    · next hlt =>
      refine List.pairwise_cons.2 ⟨fun c hc => ?_, h⟩
      rcases List.mem_cons.1 hc with rfl | hc
      exacts [hlt, Nat.lt_trans hlt (hk.1 c hc)]
    · split
      · next heq => subst heq; exact List.pairwise_cons.2 ⟨hk.1, hk.2⟩
      · refine List.pairwise_cons.2 ⟨fun c hc => ?_, ih hk.2⟩
        rcases Memory.mem_write hc with rfl | hc
        · show k < a; omega
        · exact hk.1 c hc

theorem Memory.wf_writeAll {size : Nat} (bs : List Byte) : ∀ {m : Memory} {a : Nat}, m.wf size →
    a + bs.length ≤ size → (m.writeAll a bs).wf size := by
  induction bs with
  | nil => intro m a h _; exact h
  | cons b bs ih =>
    intro m a h ha
    rw [List.length_cons] at ha
    exact ih (Memory.wf_write h (by omega) b) (by omega)

theorem Memory.wf_nil (size : Nat) : Memory.wf size [] := ⟨.nil, by simp⟩

/-- A canonical memory lists nothing at or above its size. -/
theorem Memory.read?_none_of_wf {size : Nat} {m : Memory} (h : m.wf size) {a : Nat} (ha : size ≤ a) : m.read? a = none := by
  induction m with
  | nil => rfl
  | cons d m ih =>
    obtain ⟨k, w⟩ := d
    have hk : k < size := h.2 _ (List.mem_cons_self ..)
    rw [Memory.read?, if_neg (by omega)]
    exact ih ⟨(List.pairwise_cons.1 h.1).2, fun c hc => h.2 c (List.mem_cons_of_mem _ hc)⟩

/-! ### The memories of a state -/

/-- Reading a byte after a store: the stored bytes where they went, every other byte of every memory as before. -/
theorem State.byteAt_store (s : State) (sp q : Space) (a : Nat) (bs : List Byte) (b : Nat) :
    (s.store sp a bs).byteAt q b =
      if q = sp ∧ a ≤ b ∧ b < a + bs.length then bs.getD (b - a) 0#8 else s.byteAt q b := by
  simp only [State.byteAt, State.store_epoch, State.store_space]
  by_cases hq : q = sp
  · subst hq
    simp only [if_true, Memory.read?_writeAll, true_and]
    split
    · next h => rw [List.getD_eq_getElem?_getD, List.getElem?_eq_getElem (by omega)]; rfl
    · rfl
  · simp only [hq, if_false, false_and]

theorem State.byteAt_store_ne (s : State) {sp q : Space} (h : q ≠ sp) (a : Nat) (bs : List Byte) (b : Nat) :
    (s.store sp a bs).byteAt q b = s.byteAt q b := by
  rw [State.byteAt_store, if_neg (fun c => h c.1)]

theorem State.bytesAt_store_ne (s : State) {sp q : Space} (h : q ≠ sp) (a : Nat) (bs : List Byte) (n b : Nat) :
    (s.store sp a bs).bytesAt q b n = s.bytesAt q b n :=
  State.bytesAt_congr q (by rw [State.store_space, if_neg h]) (by simp) n b

/-- `MemRead` byte by byte. -/
theorem State.bytesAt_getElem? (s : State) (sp : Space) : ∀ (n a i : Nat),
    (s.bytesAt sp a n)[i]? = if i < n then some (s.byteAt sp (a + i)) else none
  | 0, _, _ => by simp [State.bytesAt]
  | n + 1, a, 0 => by simp [State.bytesAt]
  | n + 1, a, i + 1 => by
    rw [State.bytesAt, List.getElem?_cons_succ, State.bytesAt_getElem? s sp n (a + 1) i]
    simp [Nat.add_assoc, Nat.add_comm 1 i]

theorem State.bytesAt_getD (s : State) (sp : Space) {n i : Nat} (a : Nat) (h : i < n) :
    (s.bytesAt sp a n).getD i 0#8 = s.byteAt sp (a + i) := by
  rw [List.getD_eq_getElem?_getD, State.bytesAt_getElem?, if_pos h]; rfl

/-- Reading back what was stored, or a part of it. -/
theorem State.bytesAt_store (s : State) (sp : Space) (a : Nat) (bs : List Byte) (k n : Nat) (h : k + n ≤ bs.length) :
    (s.store sp a bs).bytesAt sp (a + k) n = (bs.drop k).take n := by
  apply List.ext_getElem?
  intro i
  rw [State.bytesAt_getElem?, List.getElem?_take, List.getElem?_drop]
  split
  · next hi =>
    rw [State.byteAt_store, if_pos ⟨rfl, by omega, by omega⟩, show a + k + i - a = k + i by omega,
      List.getD_eq_getElem?_getD, List.getElem?_eq_getElem (by omega)]
    rfl
  · rfl

/-- The whole of what was stored. -/
theorem State.bytesAt_store_all (s : State) (sp : Space) (a : Nat) (bs : List Byte) :
    (s.store sp a bs).bytesAt sp a bs.length = bs := by
  simpa using s.bytesAt_store sp a bs 0 bs.length (by omega)

/-! ### The memories of a state -/

/-- A write inside a memory keeps all four in canonical form. -/
theorem State.store_wf {s : State} (h : ∀ q, Memory.wf (Config.spaceSize q) (s.space q)) (sp : Space) (a : Nat)
    (bs : List Byte) (ha : a + bs.length ≤ Config.spaceSize sp) (q : Space) :
    Memory.wf (Config.spaceSize q) ((s.store sp a bs).space q) := by
  rw [State.store_space]
  split
  · subst q; exact Memory.wf_writeAll bs (h sp) ha
  · exact h q

/-- The memories right after reset are in canonical form. -/
theorem reset_memories_wf (q : Space) : Memory.wf (Config.spaceSize q) (State.reset.space q) := by
  cases q <;> exact Memory.wf_nil _

end Sys2Proof.Machine
end

