-- ==== Sys2Proof/Laws/Operands.lean ====
section
/-!
SUPPORT. The argument tests of 42_transaction.md R97 as plain inequalities, preset addresses as numbers, and what the
builders answer.
-/

namespace Sys2Proof.Machine

theorem readCountOk_iff (c : Word) : readCountOk c = true ↔ 1 ≤ c.toNat ∧ c.toNat ≤ 30 := by
  rw [readCountOk, Bool.and_eq_true]
  exact and_congr decide_eq_true_iff decide_eq_true_iff

theorem writeCountOk_iff (c : Word) (n : Byte) :
    writeCountOk c n = true ↔ (1 ≤ c.toNat ∧ c.toNat ≤ 14) ∧ n.toNat = 2 * c.toNat := by
  rw [writeCountOk, Bool.and_eq_true, Bool.and_eq_true, beq_iff_eq]
  exact and_congr (and_congr decide_eq_true_iff decide_eq_true_iff) Iff.rfl

theorem slotOk_iff (slot : Byte) : slotOk slot = true ↔ slot.toNat < 10 := decide_eq_true_iff

theorem presetAddr_toNat {slot : Byte} (h : slot.toNat < 10) : (presetAddr slot).toNat = 0x50 + 16 * slot.toNat := by
  simp [presetAddr, Config.presetBase, Config.presetStride]; omega

/-- In a block's address the high byte is 0 (20_memory.md R49). -/
theorem presetAddr_bytes {slot : Byte} (h : slot.toNat < 10) :
    hi8 (presetAddr slot) = 0x00#8 ∧ lo8 (presetAddr slot) = 0x50#8 + 16#8 * slot := by
  constructor <;> apply BitVec.eq_of_toNat_eq
  · rw [hi8_toNat, presetAddr_toNat h]; simp; omega
  · rw [lo8_toNat, presetAddr_toNat h]; simp

@[simp] theorem presetEnc_length (r : PresetRecord) : (presetEnc r).length = 28 := rfl

/-- What each builder sends when its gate passes (41_frame_builder.md R86 to R88). -/
theorem buildRead_eq (addr : Byte) (start : Word) {count : Word} (h : readCountOk count = true) :
    buildRead addr start count =
      some (appendCrc [addr, 0x03#8, hi8 start, lo8 start, hi8 count, lo8 count]) := by
  rw [buildRead, if_pos h]; rfl

theorem buildWriteN_eq (addr : Byte) (start : Word) {count : Word} {n : Byte} (h : writeCountOk count n = true)
    (bs : List Byte) :
    buildWriteN addr start count n bs =
      some (appendCrc ([addr, 0x10#8, hi8 start, lo8 start, hi8 count, lo8 count, n] ++ bs)) := by
  rw [buildWriteN, if_pos h]; rfl

/-- No frame is longer than TXBUF, and no expected response longer than RXBUF (00_scope.md R6). -/
theorem frame_length_le {s : State} {op : TxOp} {r : Request} (h : s.request op = some r) {addr : Byte} {f : List Byte}
    (hf : r.frame addr = some f) :
    f.length ≤ 37 ∧ 7 ≤ r.responseLen ∧ r.responseLen ≤ 65 := by
  cases op <;> simp only [State.request, Option.ite_none_right_eq_some, Option.some.injEq] at h
  case rdreg =>
    obtain ⟨hc, rfl⟩ := h
    rw [Request.frame, buildRead_eq _ _ hc] at hf
    cases hf
    have := (readCountOk_iff _).1 hc
    simp [Request.responseLen]; omega
  case wrmul =>
    obtain ⟨hc, rfl⟩ := h
    rw [Request.frame, buildWriteN_eq _ _ hc] at hf
    cases hf
    have := (writeCountOk_iff _ _).1 hc
    simp [Request.responseLen]; omega
  case presetRd => obtain ⟨-, rfl⟩ := h; cases hf; exact ⟨by simp, by simp [Request.responseLen, Config.presetWords], by simp [Request.responseLen, Config.presetWords]⟩
  case presetWr => obtain ⟨-, rfl⟩ := h; cases hf; exact ⟨by simp, by simp [Request.responseLen], by simp [Request.responseLen]⟩
  case refresh => subst h; cases hf; exact ⟨by simp, by decide, by decide⟩
  case wrreg => subst h; cases hf; exact ⟨by simp [buildWrite1], by simp [Request.responseLen], by simp [Request.responseLen]⟩
  case setVolt =>
    subst h; cases hf; exact ⟨by simp [buildWrite1], by simp [Request.responseLen], by simp [Request.responseLen]⟩

end Sys2Proof.Machine
end

