-- ==== Sys2Proof/Laws/PerInstr.lean ====
section
/-!
SUPPORT. The family FrameLength: how long the words of a well-formed instruction are, one lemma per constructor.
-/

namespace Sys2Proof.Laws.FrameLength

/-- The frame length of an instruction with words (30_encoding.md R61 to R67, R70, R74); none for a host command without
words (R73). -/
def expected : Instr → Option Nat
  | .rdreg _ _ => some 8
  | .wrreg _ _ => some 8
  | .wrmul _ _ bytecount _ => some (9 + bytecount.toNat)
  | .rspR _ _ _ data _ => some (5 + data.length)
  | .rspW1 _ _ _ _ _ => some 8
  | .rspWn _ _ _ _ _ => some 8
  | .rspX _ _ _ _ tail => some (5 + tail.length)
  | .refresh => some 8
  | .presetRd _ => some 8
  | .presetWr _ => some 37
  | .setVolt _ => some 8
  | .crc16 _ => none
  | .get16 _ => none
  | .get32 _ => none
  | .getflag _ => none
  | .getSetVolt => none
  | .presetAddr _ => none
  | .presetDec _ => none
  | .presetEnc _ => none
  | .setDevaddr _ => none
  | .setTRead _ => none
  | .setTWrite _ => none
  | .setTSettle _ => none
  | .setx _ _ => none
  | .setdata _ _ => none
  | .setpr _ _ => none
  | .getstatus => none
  | .getresult => none
  | .getpr => none

/-- The words of a well-formed instruction are as long as the format says; a request fits TXBUF and a response RXBUF
(00_scope.md R6). -/
def Statement (i : Instr) : Prop :=
  ∀ (addr : Byte) (pr : PresetRecord), i.wellFormed = true →
    (encode addr pr i).map List.length = expected i ∧ ∀ n, expected i = some n → n ≤ 65

theorem of_none {i : Instr} (h : expected i = none) (e : ∀ addr pr, encode addr pr i = none) : Statement i := by
  intro addr pr _
  rw [h, e addr pr]
  exact ⟨rfl, fun n hn => by cases hn⟩

theorem of_some {i : Instr} (n : Nat) (h : expected i = some n) (hn : n ≤ 65)
    (e : ∀ addr pr, (encode addr pr i).map List.length = some n) : Statement i := by
  intro addr pr _
  rw [h, e addr pr]
  exact ⟨rfl, fun m hm => by cases hm; exact hn⟩

theorem rdreg (a b : Word) : Statement (.rdreg a b) := of_some 8 rfl (by omega) fun _ _ => rfl
theorem wrreg (a b : Word) : Statement (.wrreg a b) := of_some 8 rfl (by omega) fun _ _ => rfl

theorem wrmul (a b : Word) (n : Byte) (d : List Byte) : Statement (.wrmul a b n d) := by
  intro addr pr h
  simp only [Instr.wellFormed, Config.maxWriteCount, Bool.and_eq_true, beq_iff_eq] at h
  obtain ⟨⟨⟨-, h1⟩, h2⟩, h3⟩ := h
  refine ⟨?_, fun m hm => ?_⟩
  · simp only [encode, expected, Option.map_some, appendCrc, crcBytes, wordBytes, List.length_append, List.length_cons,
      List.length_nil, h3]
    congr 1; omega
  · have := Option.some.inj hm; have := of_decide_eq_true h1; omega

theorem rspR (a : Byte) (f : BitVec 7) (n : Byte) (d : List Byte) (k : Word) : Statement (.rspR a f n d k) := by
  intro addr pr h
  simp only [Instr.wellFormed, Config.maxReadCount, Bool.and_eq_true, beq_iff_eq] at h
  obtain ⟨⟨-, h1⟩, -⟩ := h
  refine ⟨?_, fun m hm => ?_⟩
  · simp only [encode, expected, Option.map_some, responseR, List.length_append, List.length_cons, List.length_nil]
    congr 1; omega
  · have := Option.some.inj hm; have := of_decide_eq_true h1; omega

theorem rspW1 (a : Byte) (f : BitVec 7) (r v k : Word) : Statement (.rspW1 a f r v k) :=
  of_some 8 rfl (by omega) fun _ _ => rfl
theorem rspWn (a : Byte) (f : BitVec 7) (r v k : Word) : Statement (.rspWn a f r v k) :=
  of_some 8 rfl (by omega) fun _ _ => rfl

theorem rspX (a : Byte) (f : BitVec 7) (e : Byte) (k : Word) (t : List Byte) : Statement (.rspX a f e k t) := by
  intro addr pr h
  have h := of_decide_eq_true h
  refine ⟨?_, fun m hm => ?_⟩
  · simp only [encode, expected, Option.map_some, responseX, List.length_append, List.length_cons, List.length_nil]
  · have := Option.some.inj hm; omega

theorem refresh : Statement .refresh := of_some 8 rfl (by omega) fun _ _ => rfl
theorem presetRd (a : Byte) : Statement (.presetRd a) := of_some 8 rfl (by omega) fun _ _ => rfl
theorem presetWr (a : Byte) : Statement (.presetWr a) := of_some 37 rfl (by omega) fun _ _ => rfl
theorem setVolt (a : Word) : Statement (.setVolt a) := of_some 8 rfl (by omega) fun _ _ => rfl
theorem crc16 (a : List Byte) : Statement (.crc16 a) := of_none rfl fun _ _ => rfl
theorem get16 (a : Nat) : Statement (.get16 a) := of_none rfl fun _ _ => rfl
theorem get32 (a : Nat) : Statement (.get32 a) := of_none rfl fun _ _ => rfl
theorem getflag (a : Nat) : Statement (.getflag a) := of_none rfl fun _ _ => rfl
theorem getSetVolt : Statement .getSetVolt := of_none rfl fun _ _ => rfl
theorem presetAddr (a : Byte) : Statement (.presetAddr a) := of_none rfl fun _ _ => rfl
theorem presetDec (a : List Byte) : Statement (.presetDec a) := of_none rfl fun _ _ => rfl
theorem presetEnc (a : PresetRecord) : Statement (.presetEnc a) := of_none rfl fun _ _ => rfl
theorem setDevaddr (a : Byte) : Statement (.setDevaddr a) := of_none rfl fun _ _ => rfl
theorem setTRead (a : Word) : Statement (.setTRead a) := of_none rfl fun _ _ => rfl
theorem setTWrite (a : Word) : Statement (.setTWrite a) := of_none rfl fun _ _ => rfl
theorem setTSettle (a : Word) : Statement (.setTSettle a) := of_none rfl fun _ _ => rfl
theorem setx (a : Nat) (b : Word) : Statement (.setx a b) := of_none rfl fun _ _ => rfl
theorem setdata (a : Nat) (b : Byte) : Statement (.setdata a b) := of_none rfl fun _ _ => rfl
theorem setpr (a : PrField) (b : DWord) : Statement (.setpr a b) := of_none rfl fun _ _ => rfl
theorem getstatus : Statement .getstatus := of_none rfl fun _ _ => rfl
theorem getresult : Statement .getresult := of_none rfl fun _ _ => rfl
theorem getpr : Statement .getpr := of_none rfl fun _ _ => rfl

end Sys2Proof.Laws.FrameLength
end

