-- ==== Sys2Proof/Laws/Sequencer.lean ====
section
/-!
SUPPORT. What the sequencer can do, said once: each phase's two ways out, what no phase touches, and a command run to its
end.
-/

namespace Sys2Proof.Machine

/-! ### The step in each phase -/

theorem seqStep_idle {s : State} (h : s.seq = .idle) : seqStep s = s := by simp only [seqStep, h]
theorem seqStep_check {s : State} (h : s.seq = .check) : seqStep s = phaseCheck s := by simp only [seqStep, h]
theorem seqStep_build {s : State} (h : s.seq = .build) : seqStep s = phaseBuild s := by simp only [seqStep, h]
theorem seqStep_timeout {s : State} (h : s.seq = .timeout) : seqStep s = phaseTimeout s := by simp only [seqStep, h]
theorem seqStep_send {s : State} (h : s.seq = .send) : seqStep s = phaseSend s := by simp only [seqStep, h]
theorem seqStep_settle {s : State} (h : s.seq = .settle) : seqStep s = phaseSettle s := by simp only [seqStep, h]
theorem seqStep_recv {s : State} (h : s.seq = .recv) : seqStep s = phaseRecv s := by simp only [seqStep, h]
theorem seqStep_exc {s : State} (h : s.seq = .exc) : seqStep s = phaseExc s := by simp only [seqStep, h]
theorem seqStep_crc {s : State} (h : s.seq = .crc) : seqStep s = phaseCrc s := by simp only [seqStep, h]
theorem seqStep_deliver {s : State} (h : s.seq = .deliver) : seqStep s = phaseDeliver s := by simp only [seqStep, h]

/-! ### SEND, both ways out -/

theorem phaseSend_full {s : State} (h : s.link.nextCount = s.cur.txLen.val) :
    phaseSend s = { s with link := s.link.write s.txFrame, seq := .settle } := by
  rw [phaseSend]; exact if_pos h

theorem phaseSend_short {s : State} (h : s.link.nextCount ≠ s.cur.txLen.val) :
    phaseSend s = { s with link := s.link.write s.txFrame, err := .transportWriteIncomplete, seq := .idle } := by
  rw [phaseSend]; exact if_neg h

/-! ### EXC and CRC, both ways out -/

theorem phaseExc_set {s : State} (h : (s.byteAt .rxbuf 1).getLsbD 7 = true) :
    phaseExc s = s.raise (.deviceException (s.byteAt .rxbuf 2)) := by
  rw [phaseExc, if_pos h]

theorem phaseExc_clear {s : State} (h : (s.byteAt .rxbuf 1).getLsbD 7 = false) :
    phaseExc s = { s with seq := .crc } := by
  rw [phaseExc, if_neg (by rw [h]; decide)]

theorem phaseCrc_right {s : State}
    (h : crc16 (s.bytesAt .rxbuf 0 (s.cur.rxLen.val - 2))
      = be16 (s.byteAt .rxbuf (s.cur.rxLen.val - 1)) (s.byteAt .rxbuf (s.cur.rxLen.val - 2))) :
    phaseCrc s = { s with seq := .deliver } := by
  rw [phaseCrc]; exact if_neg (by rw [bytes_differ_iff]; exact fun c => c h)

theorem phaseCrc_wrong {s : State}
    (h : crc16 (s.bytesAt .rxbuf 0 (s.cur.rxLen.val - 2))
      ≠ be16 (s.byteAt .rxbuf (s.cur.rxLen.val - 1)) (s.byteAt .rxbuf (s.cur.rxLen.val - 2))) :
    phaseCrc s = s.raise .checksumMismatch := by
  rw [phaseCrc]; exact if_pos (by rw [bytes_differ_iff]; exact h)

/-! ### The link -/

@[simp] theorem Link.record_present (l : Link) (op : TransportOp) : (l.record op).present = l.present := rfl
@[simp] theorem Link.record_trace (l : Link) (op : TransportOp) : (l.record op).trace = l.trace ++ [op] := rfl
@[simp] theorem Link.setReadTimeout_present (l : Link) (ms : Word) : (l.setReadTimeout ms).present = l.present := rfl
@[simp] theorem Link.delay_present (l : Link) (ms : Word) : (l.delay ms).present = l.present := rfl
@[simp] theorem Link.write_present (l : Link) (f : List Byte) : (l.write f).present = l.present := rfl
@[simp] theorem Link.passArrivals_present (l : Link) : l.passArrivals.present = l.present := rfl
@[simp] theorem Link.readExactly_present (l : Link) (n : Nat) (bs : List Byte) :
    (l.readExactly n bs).present = l.present := rfl
@[simp] theorem Link.hold_present (l : Link) (bs : List Byte) : (l.hold bs).present = l.present := rfl

@[simp] theorem Link.setReadTimeout_nextCount (l : Link) (ms : Word) : (l.setReadTimeout ms).nextCount = l.nextCount := rfl
@[simp] theorem Link.setReadTimeout_trace (l : Link) (ms : Word) :
    (l.setReadTimeout ms).trace = l.trace ++ [.setReadTimeout ms] := rfl
@[simp] theorem Link.delay_trace (l : Link) (ms : Word) : (l.delay ms).trace = l.trace ++ [.delay ms] := rfl
@[simp] theorem Link.write_trace (l : Link) (f : List Byte) :
    (l.write f).trace = l.trace ++ [.write f l.nextCount] := rfl
@[simp] theorem Link.passArrivals_trace (l : Link) : l.passArrivals.trace = l.trace := rfl
@[simp] theorem Link.readExactly_trace (l : Link) (n : Nat) (bs : List Byte) :
    (l.readExactly n bs).trace = l.trace ++ [.readExactly n (l.received n bs)] := rfl

/-- Never more bytes than asked for (60_exceptions.md R163). -/
theorem Link.received_length_le (l : Link) (n : Nat) (bs : List Byte) : (l.received n bs).length ≤ n := by
  simp [Link.received]

/-! ### What no phase touches -/

/-- The operand and control registers, DATA, the host's turns and reply, the reset epoch, the transport's presence. -/
def SeqKeeps (s t : State) : Prop :=
  SameOperands s t ∧ t.data = s.data ∧ SameAroundTransaction s t ∧ t.reply = s.reply

theorem SeqKeeps.rfl {s : State} : SeqKeeps s s := by simp [SeqKeeps, SameOperands, SameAroundTransaction, SameControl]

theorem SeqKeeps.trans {s t u : State} (h : SeqKeeps s t) (k : SeqKeeps t u) : SeqKeeps s u := by
  simp only [SeqKeeps, SameOperands, SameAroundTransaction, SameControl] at *
  simp_all

theorem SeqKeeps.raise (s : State) (e : Failure) : SeqKeeps s (s.raise e) := by
  simp [SeqKeeps, SameOperands, SameAroundTransaction, SameControl]

theorem phaseCheck_keeps (s : State) : SeqKeeps s (phaseCheck s) := by
  unfold phaseCheck
  split
  · exact .raise s _
  · dsimp only; split <;> simp [SeqKeeps, SameOperands, SameAroundTransaction, SameControl]

theorem phaseBuild_keeps (s : State) : SeqKeeps s (phaseBuild s) := by
  unfold phaseBuild
  split
  · exact .raise s _
  · split
    · exact .raise s _
    · simp [SeqKeeps, SameOperands, SameAroundTransaction, SameControl]

theorem phaseSend_keeps (s : State) : SeqKeeps s (phaseSend s) := by
  unfold phaseSend
  dsimp only; split <;> simp [SeqKeeps, SameOperands, SameAroundTransaction, SameControl]

theorem recvWith_keeps (bs : List Byte) (s : State) : SeqKeeps s (recvWith bs s) := by
  unfold recvWith
  dsimp only; split <;> simp [SeqKeeps, SameOperands, SameAroundTransaction, SameControl]

theorem phaseExc_keeps (s : State) : SeqKeeps s (phaseExc s) := by
  unfold phaseExc
  split
  · exact .raise s _
  · simp [SeqKeeps, SameOperands, SameAroundTransaction, SameControl]

theorem phaseCrc_keeps (s : State) : SeqKeeps s (phaseCrc s) := by
  unfold phaseCrc
  dsimp only; split
  · exact .raise s _
  · simp [SeqKeeps, SameOperands, SameAroundTransaction, SameControl]

theorem publish_keeps (s : State) : SeqKeeps s s.publish := by
  unfold State.publish
  split <;> simp [SeqKeeps, SameOperands, SameAroundTransaction, SameControl]

theorem phaseDeliver_keeps (s : State) : SeqKeeps s (phaseDeliver s) :=
  (publish_keeps s).trans (by simp [phaseDeliver, SeqKeeps, SameOperands, SameAroundTransaction, SameControl])

theorem seqStep_keeps (s : State) : SeqKeeps s (seqStep s) := by
  unfold seqStep
  split
  · exact .rfl
  · exact phaseCheck_keeps s
  · exact phaseBuild_keeps s
  · simp [phaseTimeout, SeqKeeps, SameOperands, SameAroundTransaction, SameControl]
  · exact phaseSend_keeps s
  · simp [phaseSettle, SeqKeeps, SameOperands, SameAroundTransaction, SameControl]
  · refine SeqKeeps.trans ?_ (recvWith_keeps _ _)
    simp [SeqKeeps, SameOperands, SameAroundTransaction, SameControl]
  · exact phaseExc_keeps s
  · exact phaseCrc_keeps s
  · exact phaseDeliver_keeps s

theorem runPhases_keeps : ∀ (n : Nat) (s : State), SeqKeeps s (runPhases n s)
  | 0, _ => .rfl
  | n + 1, s => by
    rw [runPhases]
    split
    · exact .rfl
    · exact (seqStep_keeps s).trans (runPhases_keeps n _)

theorem SeqKeeps.operands {s t : State} (h : SeqKeeps s t) : SameOperands s t := h.1
theorem SeqKeeps.data {s t : State} (h : SeqKeeps s t) : t.data = s.data := h.2.1
theorem SeqKeeps.around {s t : State} (h : SeqKeeps s t) : SameAroundTransaction s t := h.2.2.1
theorem SeqKeeps.reply {s t : State} (h : SeqKeeps s t) : t.reply = s.reply := h.2.2.2

/-! ### A run of phases -/

theorem runPhases_idle {s : State} (h : s.seq = .idle) : ∀ n, runPhases n s = s
  | 0 => rfl
  | n + 1 => by rw [runPhases, if_pos h]

theorem runPhases_succ {s : State} (h : s.seq ≠ .idle) (n : Nat) : runPhases (n + 1) s = runPhases n (seqStep s) := by
  rw [runPhases, if_neg h]

/-! ### The local action on success -/

@[simp] theorem State.publish_x0 (s : State) : s.publish.x0 = s.x0 := by unfold State.publish; split <;> simp
@[simp] theorem State.publish_x1 (s : State) : s.publish.x1 = s.x1 := by unfold State.publish; split <;> simp
@[simp] theorem State.publish_x2 (s : State) : s.publish.x2 = s.x2 := by unfold State.publish; split <;> simp
@[simp] theorem State.publish_x3 (s : State) : s.publish.x3 = s.x3 := by unfold State.publish; split <;> simp
@[simp] theorem State.publish_x4 (s : State) : s.publish.x4 = s.x4 := by unfold State.publish; split <;> simp
@[simp] theorem State.publish_data (s : State) : s.publish.data = s.data := by unfold State.publish; split <;> simp
@[simp] theorem State.publish_seq (s : State) : s.publish.seq = s.seq := by unfold State.publish; split <;> simp
@[simp] theorem State.publish_cur (s : State) : s.publish.cur = s.cur := by unfold State.publish; split <;> simp
@[simp] theorem State.publish_err (s : State) : s.publish.err = s.err := by unfold State.publish; split <;> simp
@[simp] theorem State.publish_excCode (s : State) : s.publish.excCode = s.excCode := by unfold State.publish; split <;> simp
@[simp] theorem State.publish_devaddr (s : State) : s.publish.devaddr = s.devaddr := by unfold State.publish; split <;> simp
@[simp] theorem State.publish_tReadMs (s : State) : s.publish.tReadMs = s.tReadMs := by unfold State.publish; split <;> simp
@[simp] theorem State.publish_tWriteMs (s : State) : s.publish.tWriteMs = s.tWriteMs := by unfold State.publish; split <;> simp
@[simp] theorem State.publish_tSettleMs (s : State) : s.publish.tSettleMs = s.tSettleMs := by unfold State.publish; split <;> simp
@[simp] theorem State.publish_resultLen (s : State) : s.publish.resultLen = s.resultLen := by unfold State.publish; split <;> simp
@[simp] theorem State.publish_txbuf (s : State) : s.publish.txbuf = s.txbuf := by unfold State.publish; split <;> simp
@[simp] theorem State.publish_rxbuf (s : State) : s.publish.rxbuf = s.rxbuf := by unfold State.publish; split <;> simp
@[simp] theorem State.publish_link (s : State) : s.publish.link = s.link := by unfold State.publish; split <;> simp
@[simp] theorem State.publish_port (s : State) : s.publish.port = s.port := by unfold State.publish; split <;> simp
@[simp] theorem State.publish_reply (s : State) : s.publish.reply = s.reply := by unfold State.publish; split <;> simp
@[simp] theorem State.publish_epoch (s : State) : s.publish.epoch = s.epoch := by unfold State.publish; split <;> simp

theorem publish_refresh {s : State} (h : s.cur.op = .refresh) :
    s.publish = { s.store .cache 0 (s.bytesAt .rxbuf 3 60) with cacheValid := true } := by
  simp only [State.publish, h]

theorem publish_presetRd {s : State} (h : s.cur.op = .presetRd) :
    s.publish = { s with pr := presetDec (s.bytesAt .rxbuf 3 28) } := by
  simp only [State.publish, h]

theorem publish_other {s : State} (h : s.cur.op ≠ .refresh) (h' : s.cur.op ≠ .presetRd) : s.publish = s := by
  unfold State.publish; split <;> first | contradiction | rfl

theorem publish_cache {s : State} (h : s.cur.op ≠ .refresh) :
    s.publish.cache = s.cache ∧ s.publish.cacheValid = s.cacheValid := by
  by_cases h' : s.cur.op = .presetRd
  · rw [publish_presetRd h']; exact ⟨rfl, rfl⟩
  · rw [publish_other h h']; exact ⟨rfl, rfl⟩

theorem publish_pr {s : State} (h : s.cur.op ≠ .presetRd) : s.publish.pr = s.pr := by
  by_cases h' : s.cur.op = .refresh
  · rw [publish_refresh h']; dsimp only; rw [State.store_pr]
  · rw [publish_other h' h]

/-- REFRESH writes bytes 0 to 59 of the cache from the response (43_cache_codec.md R120). -/
theorem publish_refresh_byteAt {s : State} (h : s.cur.op = .refresh) (a : Nat) :
    s.publish.byteAt .cache a = if a < 60 then s.byteAt .rxbuf (3 + a) else s.byteAt .cache a := by
  rw [publish_refresh h]
  generalize hb : s.bytesAt .rxbuf 3 60 = bs
  have hlen : bs.length = 60 := by rw [← hb]; simp
  rw [State.byteAt_congr (s := s.store .cache 0 bs) .cache a (by rfl) (by rfl), State.byteAt_store]
  by_cases ha : a < 60
  · rw [if_pos (show _ ∧ 0 ≤ a ∧ a < 0 + bs.length from ⟨rfl, by omega, by omega⟩), if_pos ha, ← hb,
      State.bytesAt_getD _ _ _ (by omega), Nat.sub_zero]
  · rw [if_neg (by omega), if_neg ha]

/-! ### The failure operation -/

theorem raise_seq_idle (s : State) (e : Failure) : (s.raise e).seq = .idle := rfl

/-! ### A command from acceptance on -/

theorem accept_keeps (s : State) (op : TxOp) : SeqKeeps s (s.accept op) := by
  simp [State.accept, SeqKeeps, SameOperands, SameAroundTransaction, SameControl]

/-- What a whole transaction leaves alone whatever its outcome. -/
theorem transact_keeps (s : State) (op : TxOp) :
    SameOperands s (s.transact op) ∧ (s.transact op).data = s.data ∧ SameAroundTransaction s (s.transact op)
      ∧ (s.transact op).reply = .accepted := by
  obtain ⟨h0, h1, h2, h3⟩ := runPhases_keeps 9 ((s.accept op).answer .accepted)
  exact ⟨h0, h1, h2, h3⟩

/-! ### The argument gate -/

/-- A legal transaction's builder succeeds: the gates of CHECK imply those of the builder (42_transaction.md R99). -/
theorem request_frame_isSome {s : State} {op : TxOp} {r : Request} (h : s.request op = some r) (addr : Byte) :
    (r.frame addr).isSome := by
  cases op <;> simp only [State.request, Option.ite_none_right_eq_some, Option.some.injEq] at h
  case rdreg => obtain ⟨hc, rfl⟩ := h; simp [Request.frame, buildRead, hc]
  case wrmul => obtain ⟨hc, rfl⟩ := h; simp [Request.frame, buildWriteN, hc]
  case presetRd => obtain ⟨-, rfl⟩ := h; rfl
  case presetWr => obtain ⟨-, rfl⟩ := h; rfl
  case refresh => subst h; rfl
  case wrreg => subst h; rfl
  case setVolt => subst h; rfl

/-- The transaction a command performs depends on the operand registers, DATA, PR and the reset epoch alone. -/
theorem request_congr {s t : State} (h : SameOperands s t) (hd : t.data = s.data) (hp : t.pr = s.pr)
    (he : t.epoch = s.epoch) (op : TxOp) : t.request op = s.request op := by
  obtain ⟨h0, h1, h2, h3, h4⟩ := h
  cases op <;> simp only [State.request, h0, h1, h2, h3, h4, hp,
    State.bytesAt_congr (s := s) (t := t) .data (by simpa using hd) he]

end Sys2Proof.Machine
end

