-- ==== Sys2Proof/Laws/Transaction.lean ====
section
/-!
SUPPORT. A transaction in closed form: what RECV and the three phases after it do with the bytes received, and what a
command does from acceptance to its end.
-/

namespace Sys2Proof.Machine

/-! ### RECV -/

theorem recvWith_eq (bs : List Byte) (s : State) : recvWith bs s =
    { s with
      rxbuf := s.rxbuf.writeAll 0 (s.link.received s.cur.rxLen.val bs)
      link := s.link.readExactly s.cur.rxLen.val bs
      err := if (s.link.received s.cur.rxLen.val bs).length < s.cur.rxLen.val then .transportReadIncomplete else s.err
      seq := if (s.link.received s.cur.rxLen.val bs).length < s.cur.rxLen.val then .idle else .exc } := by
  unfold recvWith
  dsimp only [State.store_cur, State.store, State.space, State.withSpace]
  split <;> rfl

/-- The state with the bytes received in RXBUF and the transport asked. -/
def State.afterRead (s : State) (bs : List Byte) : State :=
  { s with
    rxbuf := s.rxbuf.writeAll 0 (s.link.received s.cur.rxLen.val bs)
    link := s.link.readExactly s.cur.rxLen.val bs }

theorem recvWith_short {bs : List Byte} {s : State}
    (h : (s.link.received s.cur.rxLen.val bs).length < s.cur.rxLen.val) :
    recvWith bs s = { s.afterRead bs with err := .transportReadIncomplete, seq := .idle } := by
  rw [recvWith_eq, if_pos h, if_pos h]; rfl

theorem recvWith_full {bs : List Byte} {s : State}
    (h : ¬ (s.link.received s.cur.rxLen.val bs).length < s.cur.rxLen.val) :
    recvWith bs s = { s.afterRead bs with seq := .exc } := by
  rw [recvWith_eq, if_neg h, if_neg h]; rfl

/-- The bytes received stand in RXBUF from byte 0 on, the rest of it as before. -/
theorem afterRead_byteAt (s : State) (bs : List Byte) (a : Nat) :
    (s.afterRead bs).byteAt .rxbuf a =
      if a < (s.link.received s.cur.rxLen.val bs).length then (s.link.received s.cur.rxLen.val bs).getD a 0#8
      else s.byteAt .rxbuf a := by
  have h : (s.afterRead bs).byteAt .rxbuf a
      = (s.store .rxbuf 0 (s.link.received s.cur.rxLen.val bs)).byteAt .rxbuf a :=
    State.byteAt_congr .rxbuf a rfl rfl
  rw [h, State.byteAt_store]
  simp

/-- Reading the response back. -/
theorem afterRead_bytesAt (s : State) (bs : List Byte) (k n : Nat)
    (h : k + n ≤ (s.link.received s.cur.rxLen.val bs).length) :
    (s.afterRead bs).bytesAt .rxbuf k n = ((s.link.received s.cur.rxLen.val bs).drop k).take n := by
  have e : (s.afterRead bs).bytesAt .rxbuf k n
      = (s.store .rxbuf 0 (s.link.received s.cur.rxLen.val bs)).bytesAt .rxbuf k n :=
    State.bytesAt_congr .rxbuf (by rfl) (by rfl) n k
  rw [e, ← s.bytesAt_store .rxbuf 0 _ k n h, Nat.zero_add]

/-! ### RECV, EXC, CRC, DELIVER -/

/-- The four last phases on a response, by the verdict on it (42_transaction.md R104 to R107). -/
theorem run_response (s : State) (bs : List Byte) (hl : 3 ≤ s.cur.rxLen.val) :
    runPhases 3 (recvWith bs s) =
      match responseVerdict s.cur.rxLen.val (s.link.received s.cur.rxLen.val bs) with
      | .transportReadIncomplete => { s.afterRead bs with err := .transportReadIncomplete, seq := .idle }
      | .deviceException => { s.afterRead bs with
          err := .deviceException, excCode := (s.link.received s.cur.rxLen.val bs).getD 2 0#8, seq := .idle }
      | .checksumMismatch => { s.afterRead bs with err := .checksumMismatch, seq := .idle }
      | _ => phaseDeliver { s.afterRead bs with seq := .deliver } := by
  have hb := afterRead_byteAt s bs
  have hbs := afterRead_bytesAt s bs
  have hle := s.link.received_length_le s.cur.rxLen.val bs
  by_cases h1 : (s.link.received s.cur.rxLen.val bs).length < s.cur.rxLen.val
  · rw [recvWith_short h1, runPhases_idle rfl]
    simp only [responseVerdict, if_pos h1]
  rw [recvWith_full h1, runPhases_succ (by simp), seqStep_exc rfl, phaseExc]
  have hlen : (s.link.received s.cur.rxLen.val bs).length = s.cur.rxLen.val := by omega
  have e1 : State.byteAt { s.afterRead bs with seq := .exc } .rxbuf 1
      = (s.link.received s.cur.rxLen.val bs).getD 1 0#8 := (hb 1).trans (if_pos (by omega))
  have e2 : State.byteAt { s.afterRead bs with seq := .exc } .rxbuf 2
      = (s.link.received s.cur.rxLen.val bs).getD 2 0#8 := (hb 2).trans (if_pos (by omega))
  rw [e1, e2]
  by_cases h2 : ((s.link.received s.cur.rxLen.val bs).getD 1 0#8).getLsbD 7 = true
  · rw [if_pos h2, runPhases_idle rfl]
    simp only [responseVerdict, if_neg h1, if_pos h2]
    rfl
  rw [if_neg h2, runPhases_succ (by simp), seqStep_crc rfl, phaseCrc]
  have ec : State.bytesAt { s.afterRead bs with seq := .crc } .rxbuf 0 (s.cur.rxLen.val - 2)
      = (s.link.received s.cur.rxLen.val bs).take (s.cur.rxLen.val - 2) :=
    (State.bytesAt_congr (s := s.afterRead bs) .rxbuf (by rfl) (by rfl) _ _).trans (hbs 0 (s.cur.rxLen.val - 2) (by omega))
  have ea : State.byteAt { s.afterRead bs with seq := .crc } .rxbuf (s.cur.rxLen.val - 2)
      = (s.link.received s.cur.rxLen.val bs).getD (s.cur.rxLen.val - 2) 0#8 := (hb _).trans (if_pos (by omega))
  have eb : State.byteAt { s.afterRead bs with seq := .crc } .rxbuf (s.cur.rxLen.val - 1)
      = (s.link.received s.cur.rxLen.val bs).getD (s.cur.rxLen.val - 1) 0#8 := (hb _).trans (if_pos (by omega))
  have em := crcMatches_iff (s.link.received s.cur.rxLen.val bs) (by omega)
  rw [hlen] at em
  change runPhases 1 (if lo8 (crc16 (State.bytesAt { s.afterRead bs with seq := .crc } .rxbuf 0 (s.cur.rxLen.val - 2)))
        ≠ State.byteAt { s.afterRead bs with seq := .crc } .rxbuf (s.cur.rxLen.val - 2) ∨
      hi8 (crc16 (State.bytesAt { s.afterRead bs with seq := .crc } .rxbuf 0 (s.cur.rxLen.val - 2)))
        ≠ State.byteAt { s.afterRead bs with seq := .crc } .rxbuf (s.cur.rxLen.val - 1) then _ else _) = _
  rw [ec, ea, eb]
  by_cases h3 : crcMatches (s.link.received s.cur.rxLen.val bs) = true
  · rw [if_neg (by rw [bytes_differ_iff]; simpa using em.1 h3), runPhases_succ (by simp), seqStep_deliver rfl, runPhases]
    simp only [responseVerdict, if_neg h1, if_neg h2, if_pos h3]
  · rw [if_pos (by rw [bytes_differ_iff]; exact fun h => h3 (em.2 h)), runPhases_idle rfl]
    simp only [responseVerdict, if_neg h1, if_neg h2, if_neg h3]
    rfl

/-! ### From acceptance to RECV -/

/-- The kind of a command's transaction is fixed by the command. -/
theorem request_kind {s : State} {op : TxOp} {r : Request} (h : s.request op = some r) : r.kind = op.kind := by
  cases op <;> simp only [State.request, Option.ite_none_right_eq_some, Option.some.injEq] at h <;>
    first | (subst h; rfl) | (obtain ⟨-, rfl⟩ := h; rfl)

/-- The timeout of a command (42_transaction.md R100). -/
theorem timeoutOf_eq {s : State} {op : TxOp} {r : Request} (h : s.request op = some r) :
    s.timeoutOf op = if r.kind = .read then s.tReadMs else s.tWriteMs := by
  rw [request_kind h]; cases op <;> rfl

/-- The argument gate fails. -/
theorem transact_invalid {s : State} {op : TxOp} (h : s.request op = none) :
    s.transact op =
      { s with
        cur := { s.cur with op := op }, err := .invalidArgument, excCode := 0, resultLen := 0, seq := .idle
        reply := .accepted } := by
  have hr : State.request { (s.accept op).answer .accepted with seq := .check } op = none :=
    (request_congr (s := s) (by exact ⟨rfl, rfl, rfl, rfl, rfl⟩) (by rfl) (by rfl) (by rfl) op).trans h
  rw [State.transact, runPhases_succ (by simp [State.accept, State.answer]), seqStep_check rfl]
  change runPhases 8 (match State.request { (s.accept op).answer .accepted with seq := .check } op with
    | none => _ | some r => _) = _
  rw [hr, runPhases_idle rfl]
  rfl

/-- The transport is absent. -/
theorem transact_absent {s : State} {op : TxOp} {r : Request} (h : s.request op = some r)
    (hp : s.link.present = false) :
    s.transact op =
      { s with
        cur := { s.cur with op := op, kind := r.kind }, err := .transportUnavailable, excCode := 0, resultLen := 0
        seq := .idle, reply := .accepted } := by
  have hr : State.request { (s.accept op).answer .accepted with seq := .check } op = some r :=
    (request_congr (s := s) (by exact ⟨rfl, rfl, rfl, rfl, rfl⟩) (by rfl) (by rfl) (by rfl) op).trans h
  rw [State.transact, runPhases_succ (by simp [State.accept, State.answer]), seqStep_check rfl]
  change runPhases 8 (match State.request { (s.accept op).answer .accepted with seq := .check } op with
    | none => _ | some r => if s.link.present = true then _ else _) = _
  rw [hr]
  change runPhases 8 (if s.link.present = true then _ else _) = _
  rw [if_neg (by simp [hp]), runPhases_idle rfl]
  rfl

/-- The state in which a command's frame has been handed over, whatever count came back. -/
def State.sent (s : State) (op : TxOp) (r : Request) (f : List Byte) (seq : Phase) : State :=
  { s with
    cur := ⟨op, r.kind, Fin.ofNat 38 f.length, Fin.ofNat 66 r.responseLen⟩
    err := .ok, excCode := 0, resultLen := 0, reply := .accepted
    txbuf := s.txbuf.writeAll 0 f
    link := (s.link.setReadTimeout (s.timeoutOf op)).write f
    seq := seq }

/-- Up to SEND, the gates of CHECK passed. -/
theorem transact_send {s : State} {op : TxOp} {r : Request} {f : List Byte} (h : s.request op = some r)
    (hp : s.link.present = true) (hf : r.frame s.devaddr = some f) :
    s.transact op = runPhases 5
      (if s.link.nextCount = f.length then s.sent op r f .settle
       else (s.sent op r f .send).raise .transportWriteIncomplete) := by
  have hlen := (frame_length_le h hf).1
  have e1 : seqStep ((s.accept op).answer .accepted)
      = { (s.accept op).answer .accepted with cur := { s.cur with op := op, kind := r.kind }, seq := .build } := by
    have hr : State.request { (s.accept op).answer .accepted with seq := .check } op = some r :=
    (request_congr (s := s) (by exact ⟨rfl, rfl, rfl, rfl, rfl⟩) (by rfl) (by rfl) (by rfl) op).trans h
    rw [seqStep_check rfl]
    change (match State.request { (s.accept op).answer .accepted with seq := .check } op with
      | none => _ | some r => if s.link.present = true then _ else _) = _
    rw [hr]
    change (if s.link.present = true then _ else _) = _
    rw [if_pos hp]
    rfl
  have e2 : seqStep { (s.accept op).answer .accepted with cur := { s.cur with op := op, kind := r.kind }, seq := .build }
      = { s with
          cur := ⟨op, r.kind, Fin.ofNat 38 f.length, Fin.ofNat 66 r.responseLen⟩
          err := .ok, excCode := 0, resultLen := 0, reply := .accepted
          txbuf := s.txbuf.writeAll 0 f
          seq := .timeout } := by
    have hr : State.request { (s.accept op).answer .accepted with
        cur := { s.cur with op := op, kind := r.kind }, seq := .build } op = some r :=
    (request_congr (s := s) (by exact ⟨rfl, rfl, rfl, rfl, rfl⟩) (by rfl) (by rfl) (by rfl) op).trans h
    rw [seqStep_build rfl]
    change (match State.request { (s.accept op).answer .accepted with
        cur := { s.cur with op := op, kind := r.kind }, seq := .build } op with
      | none => _
      | some r => match r.frame s.devaddr with
        | none => _
        | some f => _) = _
    rw [hr]
    change (match r.frame s.devaddr with | none => _ | some f => _) = _
    rw [hf]
    rfl
  rw [State.transact, runPhases_succ (by simp [State.accept, State.answer]), e1, runPhases_succ (by simp), e2,
    runPhases_succ (by simp), seqStep_timeout rfl, phaseTimeout, runPhases_succ (by simp), seqStep_send rfl, phaseSend]
  have hv : (Fin.ofNat 38 f.length).val = f.length := Nat.mod_eq_of_lt (by omega)
  have hx : State.txFrame { s with
          cur := ⟨op, r.kind, Fin.ofNat 38 f.length, Fin.ofNat 66 r.responseLen⟩
          err := .ok, excCode := 0, resultLen := 0, reply := .accepted
          txbuf := s.txbuf.writeAll 0 f
          link := s.link.setReadTimeout (if r.kind = .read then s.tReadMs else s.tWriteMs)
          seq := .send } = f := by
    have e : State.txFrame { s with
          cur := ⟨op, r.kind, Fin.ofNat 38 f.length, Fin.ofNat 66 r.responseLen⟩
          err := .ok, excCode := 0, resultLen := 0, reply := .accepted
          txbuf := s.txbuf.writeAll 0 f
          link := s.link.setReadTimeout (if r.kind = .read then s.tReadMs else s.tWriteMs)
          seq := .send } = (s.store .txbuf 0 f).bytesAt .txbuf 0 (Fin.ofNat 38 f.length).val :=
      State.bytesAt_congr .txbuf (by rfl) (by rfl) _ _
    rw [e, hv, State.bytesAt_store_all]
  rw [← timeoutOf_eq h] at hx
  rw [← timeoutOf_eq h]
  dsimp only
  rw [hx, hv]
  rfl

/-- The frame was not taken whole. -/
theorem transact_incomplete {s : State} {op : TxOp} {r : Request} {f : List Byte} (h : s.request op = some r)
    (hp : s.link.present = true) (hf : r.frame s.devaddr = some f) (hn : s.link.nextCount ≠ f.length) :
    s.transact op = { s.sent op r f .idle with err := .transportWriteIncomplete } := by
  rw [transact_send h hp hf, if_neg hn, runPhases_idle rfl]
  rfl

/-- The command as it waits for its response. -/
def State.waiting (s : State) (op : TxOp) (r : Request) (f : List Byte) : State :=
  { s.sent op r f .recv with
    link := (((s.link.setReadTimeout (s.timeoutOf op)).write f).delay s.tSettleMs).passArrivals }

/-- The frame was taken whole: what is left is the response. -/
theorem transact_waits {s : State} {op : TxOp} {r : Request} {f : List Byte} (h : s.request op = some r)
    (hp : s.link.present = true) (hf : r.frame s.devaddr = some f) (hn : s.link.nextCount = f.length) :
    s.transact op = runPhases 3 (recvWith (s.link.write []).nextArrivals (s.waiting op r f)) := by
  rw [transact_send h hp hf, if_pos hn, runPhases_succ (by simp [State.sent]), seqStep_settle rfl,
    runPhases_succ (by simp [phaseSettle]), seqStep_recv rfl]
  rfl

/-- The command with its response read. -/
def State.answered (s : State) (op : TxOp) (r : Request) (f : List Byte) : State :=
  (s.waiting op r f).afterRead (s.link.write []).nextArrivals

theorem waiting_rxLen {s : State} {op : TxOp} {r : Request} {f : List Byte} (h : s.request op = some r)
    (hf : r.frame s.devaddr = some f) : (s.waiting op r f).cur.rxLen.val = r.responseLen :=
  Nat.mod_eq_of_lt (by have := frame_length_le h hf; omega)

theorem waiting_received {s : State} {op : TxOp} {r : Request} {f : List Byte} (h : s.request op = some r)
    (hf : r.frame s.devaddr = some f) :
    (s.waiting op r f).link.received (s.waiting op r f).cur.rxLen.val (s.link.write []).nextArrivals
      = s.link.answerTo r.responseLen := by
  rw [waiting_rxLen h hf]; rfl

/-- What a command does once its frame has been taken, by the verdict on the response. -/
theorem transact_answered {s : State} {op : TxOp} {r : Request} {f : List Byte} (h : s.request op = some r)
    (hp : s.link.present = true) (hf : r.frame s.devaddr = some f) (hn : s.link.nextCount = f.length) :
    s.transact op =
      match responseVerdict r.responseLen (s.link.answerTo r.responseLen) with
      | .transportReadIncomplete => { s.answered op r f with err := .transportReadIncomplete, seq := .idle }
      | .deviceException => { s.answered op r f with
          err := .deviceException, excCode := (s.link.answerTo r.responseLen).getD 2 0#8, seq := .idle }
      | .checksumMismatch => { s.answered op r f with err := .checksumMismatch, seq := .idle }
      | _ => phaseDeliver { s.answered op r f with seq := .deliver } := by
  have hl := frame_length_le h hf
  have h3 : 3 ≤ (s.waiting op r f).cur.rxLen.val := by rw [waiting_rxLen h hf]; omega
  rw [transact_waits h hp hf hn, run_response _ _ h3, waiting_received h hf, waiting_rxLen h hf]
  rfl

/-- The verdict in each case. -/
theorem verdict_answered {s : State} {op : TxOp} {r : Request} {f : List Byte} (h : s.request op = some r)
    (hp : s.link.present = true) (hf : r.frame s.devaddr = some f) (hn : s.link.nextCount = f.length) :
    s.verdict op = responseVerdict r.responseLen (s.link.answerTo r.responseLen) := by
  simp only [State.verdict, h, hp, hf, hn]; simp

theorem verdict_invalid {s : State} {op : TxOp} (h : s.request op = none) : s.verdict op = .invalidArgument := by
  simp only [State.verdict, h]

theorem verdict_absent {s : State} {op : TxOp} {r : Request} (h : s.request op = some r) (hp : s.link.present = false) :
    s.verdict op = .transportUnavailable := by
  simp only [State.verdict, h, hp]; simp

theorem verdict_incomplete {s : State} {op : TxOp} {r : Request} {f : List Byte} (h : s.request op = some r)
    (hp : s.link.present = true) (hf : r.frame s.devaddr = some f) (hn : s.link.nextCount ≠ f.length) :
    s.verdict op = .transportWriteIncomplete := by
  simp only [State.verdict, h, hp, hf]; simp [hn]

/-- Every command is in one of four cases. -/
theorem transact_cases (s : State) (op : TxOp) :
    s.request op = none
    ∨ (∃ r, s.request op = some r ∧ s.link.present = false)
    ∨ (∃ r f, s.request op = some r ∧ s.link.present = true ∧ r.frame s.devaddr = some f ∧ s.link.nextCount ≠ f.length)
    ∨ (∃ r f, s.request op = some r ∧ s.link.present = true ∧ r.frame s.devaddr = some f
        ∧ s.link.nextCount = f.length) := by
  cases h : s.request op with
  | none => exact .inl rfl
  | some r =>
    obtain ⟨f, hf⟩ := Option.isSome_iff_exists.1 (request_frame_isSome h s.devaddr)
    by_cases hp : s.link.present = true
    · by_cases hn : s.link.nextCount = f.length
      · exact .inr (.inr (.inr ⟨r, f, rfl, hp, hf, hn⟩))
      · exact .inr (.inr (.inl ⟨r, f, rfl, hp, hf, hn⟩))
    · exact .inr (.inl ⟨r, rfl, by simpa using hp⟩)

/-- A response has one of four verdicts. -/
theorem responseVerdict_cases (len : Nat) (r : List Byte) :
    responseVerdict len r = .transportReadIncomplete ∨ responseVerdict len r = .deviceException
    ∨ responseVerdict len r = .checksumMismatch ∨ responseVerdict len r = .ok := by
  unfold responseVerdict
  split
  · exact .inl rfl
  · split
    · exact .inr (.inl rfl)
    · split
      · exact .inr (.inr (.inr rfl))
      · exact .inr (.inr (.inl rfl))

/-! ### A transaction that succeeds -/

theorem responseVerdict_good {len : Nat} {r : List Byte} (h : goodResponse len r = true) :
    responseVerdict len r = .ok ∧ r.length = len := by
  simp only [goodResponse, Bool.and_eq_true, beq_iff_eq, Bool.not_eq_true'] at h
  obtain ⟨⟨h1, h2⟩, h3⟩ := h
  exact ⟨by simp only [responseVerdict, h1, h2, h3]; simp, h1⟩

theorem transact_good {s : State} {op : TxOp} {r : Request} {f : List Byte} (h : s.request op = some r)
    (hf : r.frame s.devaddr = some f) (hr : s.Ready f r.responseLen) :
    s.transact op = phaseDeliver { s.answered op r f with seq := .deliver } := by
  rw [transact_answered h hr.2.1 hf hr.2.2.1, (responseVerdict_good hr.2.2.2).1]

/-- What the response put into RXBUF, in a command that has read it. -/
theorem answered_bytesAt {s : State} {op : TxOp} {r : Request} {f : List Byte} (h : s.request op = some r)
    (hf : r.frame s.devaddr = some f) (k n : Nat) (hk : k + n ≤ (s.link.answerTo r.responseLen).length) :
    (s.answered op r f).bytesAt .rxbuf k n = ((s.link.answerTo r.responseLen).drop k).take n := by
  have e := waiting_received h hf
  rw [State.answered, afterRead_bytesAt _ _ _ _ (by rw [e]; exact hk), e]

theorem answered_byteAt {s : State} {op : TxOp} {r : Request} {f : List Byte} (h : s.request op = some r)
    (hf : r.frame s.devaddr = some f) (a : Nat) :
    (s.answered op r f).byteAt .rxbuf a =
      if a < (s.link.answerTo r.responseLen).length then (s.link.answerTo r.responseLen).getD a 0#8
      else s.byteAt .rxbuf a := by
  have e := waiting_received h hf
  rw [State.answered, afterRead_byteAt, e]
  rfl

/-- A transaction that nothing stands in the way of: what is said of every command. -/
theorem transact_done {s : State} {op : TxOp} {r : Request} {f : List Byte} (h : s.request op = some r)
    (hf : r.frame s.devaddr = some f) (hr : s.Ready f r.responseLen) :
    TransactionDone s (s.transact op) (s.timeoutOf op) f (s.link.answerTo r.responseLen) := by
  obtain ⟨-, hlen⟩ := responseVerdict_good hr.2.2.2
  obtain ⟨-, -, hk, hrep⟩ := transact_keeps s op
  have ht := transact_good h hf hr
  have hres : (s.transact op).resultLen.val = (s.link.answerTo r.responseLen).length - 4 := by
    rw [ht, hlen, ← waiting_rxLen h hf]; rfl
  have hbig := frame_length_le h hf
  have hrx : (s.transact op).rxbuf = (s.answered op r f).rxbuf := by
    rw [ht]; simp only [phaseDeliver, State.publish_rxbuf]
  have htx : (s.transact op).txbuf = s.txbuf.writeAll 0 f := by
    rw [ht]; simp only [phaseDeliver, State.publish_txbuf]; rfl
  have hlink : (s.transact op).link = (s.answered op r f).link := by
    rw [ht]; simp only [phaseDeliver, State.publish_link]
  have hep : (s.transact op).epoch = s.epoch := hk.2.2.2
  refine ⟨by rw [ht]; rfl, by rw [ht]; rfl, ?_, hrep, hres, ?_, fun a => ?_, fun a => ?_, ?_, hk⟩
  · rw [ht]; simp only [phaseDeliver, State.publish_excCode]; rfl
  · have ho : (s.transact op).resultOpen = true := by rw [ht]; rfl
    rw [State.resultBytes, if_pos ho, hres,
      State.bytesAt_congr (s := s.answered op r f) .rxbuf (by simpa using hrx) (by rw [hep]; rfl),
      answered_bytesAt h hf _ _ (by omega)]
  · rw [State.byteAt_congr (s := s.answered op r f) .rxbuf a (by simpa using hrx) (by rw [hep]; rfl),
      answered_byteAt h hf]
  · rw [State.byteAt_congr (s := s.store .txbuf 0 f) .txbuf a (by simpa using htx) (by rw [hep]; rfl),
      State.byteAt_store]
    simp
  · have e := waiting_received h hf
    rw [hlink]
    simp only [State.answered, State.afterRead, Link.readExactly_trace, e]
    rw [waiting_rxLen h hf, hlen]
    simp only [State.waiting, Link.passArrivals_trace, Link.delay_trace, Link.write_trace, Link.setReadTimeout_trace,
      Link.setReadTimeout_nextCount, hr.2.2.1]
    simp

/-- And what is said of the cache and the preset record. -/
theorem transact_publishes {s : State} {op : TxOp} {r : Request} {f : List Byte} (h : s.request op = some r)
    (hf : r.frame s.devaddr = some f) (hr : s.Ready f r.responseLen) :
    (op ≠ .refresh → (s.transact op).cache = s.cache ∧ (s.transact op).cacheValid = s.cacheValid)
    ∧ (op ≠ .presetRd → (s.transact op).pr = s.pr)
    ∧ (op = .refresh → (s.transact op).cacheValid = true ∧ ∀ a, (s.transact op).byteAt .cache a =
        if a < 60 then (s.link.answerTo r.responseLen).getD (3 + a) 0#8 else s.byteAt .cache a)
    ∧ (op = .presetRd → (s.transact op).pr = presetDec (((s.link.answerTo r.responseLen).drop 3).take 28)) := by
  obtain ⟨-, hlen⟩ := responseVerdict_good hr.2.2.2
  have ht := transact_good h hf hr
  refine ⟨fun ho => ?_, fun ho => ?_, fun ho => ?_, fun ho => ?_⟩
  · rw [ht]; exact publish_cache (s := { s.answered op r f with seq := .deliver }) ho
  · rw [ht]; exact publish_pr (s := { s.answered op r f with seq := .deliver }) ho
  · have hL : r.responseLen = 65 := by
      subst ho; simp only [State.request, Option.some.injEq] at h; rw [← h]; rfl
    refine ⟨?_, fun a => ?_⟩
    · rw [ht]
      have := publish_refresh (s := { s.answered op r f with seq := .deliver }) ho
      simp only [phaseDeliver, this]
    · rw [State.byteAt_congr (s := State.publish { s.answered op r f with seq := .deliver }) .cache a
        (by rw [ht]; rfl) (by rw [ht]; rfl), publish_refresh_byteAt (s := { s.answered op r f with seq := .deliver }) ho]
      by_cases ha : a < 60
      · rw [if_pos ha, if_pos ha]
        exact (answered_byteAt h hf (3 + a)).trans (if_pos (by omega))
      · rw [if_neg ha, if_neg ha]; rfl
  · have hL : r.responseLen = 33 := by
      subst ho
      simp only [State.request, Option.ite_none_right_eq_some, Option.some.injEq] at h
      obtain ⟨-, rfl⟩ := h; rfl
    rw [ht]
    have := publish_presetRd (s := { s.answered op r f with seq := .deliver }) ho
    simp only [phaseDeliver, this]
    rw [← answered_bytesAt h hf 3 28 (by omega)]
    rfl

end Sys2Proof.Machine
end

