-- ==== Sys2Proof/Laws/Step.lean ====
section
/-!
SUPPORT. What a step can do, said once: the six shapes of an instruction's effect and the four of a turn.
-/

namespace Sys2Proof.Machine

/-- A state that differs from `s` in the operand registers, DATA (canonical if it was) and PR alone. -/
def Loads (s t : State) : Prop :=
  ∃ x0 x1 x2 x3 x4 m pr, t = { s with x0 := x0, x1 := x1, x2 := x2, x3 := x3, x4 := x4, data := m, pr := pr }
    ∧ (Memory.wf (Config.spaceSize .data) s.data → Memory.wf (Config.spaceSize .data) m)

theorem Loads.rfl {s : State} : Loads s s := ⟨_, _, _, _, _, _, _, Eq.refl s, id⟩

theorem Loads.trans {s t u : State} (h : Loads s t) (k : Loads t u) : Loads s u := by
  obtain ⟨_, _, _, _, _, _, _, rfl, hm⟩ := h
  obtain ⟨_, _, _, _, _, _, _, rfl, km⟩ := k
  exact ⟨_, _, _, _, _, _, _, Eq.refl _, fun h => km (hm h)⟩

theorem Loads.setX (s : State) (i : Nat) (v : Word) : Loads s (s.setX i v) := by
  unfold State.setX
  split <;> exact ⟨_, _, _, _, _, _, _, Eq.refl _, id⟩

theorem Loads.setPr (s : State) (pr : PresetRecord) : Loads s { s with pr := pr } := ⟨_, _, _, _, _, _, _, Eq.refl _, id⟩

theorem Loads.data (s : State) (k : Nat) (bs : List Byte) (h : k + bs.length ≤ 28) : Loads s (s.store .data k bs) :=
  ⟨_, _, _, _, _, _, _, Eq.refl _, fun hm => Memory.wf_writeAll bs hm h⟩

theorem Loads.loadData (s : State) (bs : List Byte) : Loads s (s.loadData bs) :=
  .data s 0 _ (by rw [List.length_take]; show 0 + min 28 _ ≤ 28; omega)

/-- What an instruction can do. -/
inductive Effect (i : Instr) (s : State) : State → Prop
  /-- An answer and nothing else. -/
  | answered (r : Reply) : Effect i s (s.answer r)
  /-- The address of the device. -/
  | address (a : Byte) (hi : i = .setDevaddr a) (hs : s.seq = .idle) :
      Effect i s (State.answer { s with devaddr := a } .accepted)
  /-- The three delays. -/
  | delays (r w q : Word) (hs : s.seq = .idle) :
      Effect i s (State.answer { s with tReadMs := r, tWriteMs := w, tSettleMs := q } .accepted)
  /-- The operands. -/
  | loaded (t : State) (hs : s.seq = .idle) (h : Loads s t) : Effect i s (t.answer .accepted)
  /-- A transaction. -/
  | transacted (t : State) (op : TxOp) (hs : s.seq = .idle) (h : Loads s t) (hp : t.pr = s.pr) :
      Effect i s (t.transact op)
  /-- A response. -/
  | responded (f : List Byte) : Effect i s (s.respond f)

theorem not_busy {s : State} (h : s.busy ≠ true) : s.seq = .idle := by
  simpa [State.busy] using h

theorem effect_answerIf (i : Instr) (s : State) (ok : Bool) (r : Reply) : Effect i s (s.answerIf ok r) := by
  cases ok
  · exact .answered _
  · exact .answered _

theorem effect_call (i : Instr) (s : State) (load : State → State) (op : TxOp) (h : Loads s (load s))
    (hp : (load s).pr = s.pr) : Effect i s (s.call load op) := by
  unfold State.call
  split
  · exact .answered _
  · exact .transacted _ op (not_busy ‹_›) h hp

theorem effect_hostWrite (i : Instr) (s : State) (write : State → State)
    (h : s.seq = .idle → Effect i s ((write s).answer .accepted)) : Effect i s (s.hostWrite write) := by
  unfold State.hostWrite
  split
  · exact .answered _
  · exact h (not_busy ‹_›)

theorem effect_hostWriteIf (i : Instr) (s : State) (ok : Bool) (write : State → State)
    (h : s.seq = .idle → ok = true → Effect i s ((write s).answer .accepted)) : Effect i s (s.hostWriteIf ok write) := by
  unfold State.hostWriteIf
  split
  · exact .answered _
  · split
    · exact h (not_busy ‹_›) ‹_›
    · exact .answered _

/-- Every instruction ends in a next state, and has one of these effects. -/
theorem exec_effect (i : Instr) (s : State) : ∃ t, exec i s = .next t ∧ Effect i s t := by
  cases i with
  | rdreg a b => exact ⟨_, rfl, effect_call _ _ _ _ ((Loads.setX s 0 a).trans (Loads.setX _ 1 b)) (by simp)⟩
  | wrreg a b => exact ⟨_, rfl, effect_call _ _ _ _ ((Loads.setX s 0 a).trans (Loads.setX _ 2 b)) (by simp)⟩
  | wrmul a b c d =>
    exact ⟨_, rfl, effect_call _ _ _ _
      ((((Loads.setX s 0 a).trans (Loads.setX _ 1 b)).trans (Loads.setX _ 3 _)).trans (Loads.loadData _ d))
      (by simp [State.loadData])⟩
  | rspR a b c d e => exact ⟨_, rfl, .responded _⟩
  | rspW1 a b c d e => exact ⟨_, rfl, .responded _⟩
  | rspWn a b c d e => exact ⟨_, rfl, .responded _⟩
  | rspX a b c d e => exact ⟨_, rfl, .responded _⟩
  | refresh => exact ⟨_, rfl, effect_call _ _ _ _ .rfl rfl⟩
  | presetRd a => exact ⟨_, rfl, effect_call _ _ _ _ (Loads.setX s 4 _) (by simp)⟩
  | presetWr a => exact ⟨_, rfl, effect_call _ _ _ _ (Loads.setX s 4 _) (by simp)⟩
  | setVolt a => exact ⟨_, rfl, effect_call _ _ _ _ (Loads.setX s 2 a) (by simp)⟩
  | crc16 a => exact ⟨_, rfl, .answered _⟩
  | get16 a => exact ⟨_, rfl, effect_answerIf _ _ _ _⟩
  | get32 a => exact ⟨_, rfl, effect_answerIf _ _ _ _⟩
  | getflag a => exact ⟨_, rfl, effect_answerIf _ _ _ _⟩
  | getSetVolt => exact ⟨_, rfl, .answered _⟩
  | presetAddr a => exact ⟨_, rfl, effect_answerIf _ _ _ _⟩
  | presetDec a => exact ⟨_, rfl, effect_answerIf _ _ _ _⟩
  | presetEnc a => exact ⟨_, rfl, .answered _⟩
  | setDevaddr a => exact ⟨_, rfl, effect_hostWrite _ _ _ fun h => .address a rfl h⟩
  | setTRead a => exact ⟨_, rfl, effect_hostWrite _ _ _ fun h => .delays a s.tWriteMs s.tSettleMs h⟩
  | setTWrite a => exact ⟨_, rfl, effect_hostWrite _ _ _ fun h => .delays s.tReadMs a s.tSettleMs h⟩
  | setTSettle a => exact ⟨_, rfl, effect_hostWrite _ _ _ fun h => .delays s.tReadMs s.tWriteMs a h⟩
  | setx a v => exact ⟨_, rfl, effect_hostWriteIf _ _ _ _ fun h _ => .loaded _ h (Loads.setX s a v)⟩
  | setdata k b =>
    exact ⟨_, rfl, effect_hostWriteIf _ _ _ _ fun h hk => .loaded _ h
      (Loads.data s k [b] (of_decide_eq_true hk))⟩
  | setpr f v => exact ⟨_, rfl, effect_hostWrite _ _ _ fun h => .loaded _ h (Loads.setPr s _)⟩
  | getstatus => exact ⟨_, rfl, .answered _⟩
  | getresult => exact ⟨_, rfl, .answered _⟩
  | getpr => exact ⟨_, rfl, .answered _⟩

/-- What a step can do: `u` is the state with the turn taken from the port. -/
theorem step_cases {s t : State} (h : step s = .next t) :
    ∃ u : State, u = { s with port := u.port } ∧
      (((s.port = [] ∨ ∃ rest, s.port = .tick :: rest) ∧ t = seqStep u)
      ∨ (∃ op rest, s.port = .issue op :: rest ∧ s.seq = .idle ∧ t = (u.accept op).answer .accepted)
      ∨ (∃ op rest, s.port = .issue op :: rest ∧ t = u.turnAway .busy)
      ∨ (∃ rest, s.port = .reset :: rest ∧ t = u.resetEvent)
      ∨ (∃ i rest, s.port = .instr i :: rest ∧ Effect i u t)) := by
  unfold step at h
  split at h
  · cases h
    exact ⟨s, rfl, .inl ⟨.inl ‹_›, rfl⟩⟩
  · obtain ⟨t', e, he⟩ := exec_effect ‹Instr› { s with port := ‹_› }
    rw [e] at h
    cases h
    exact ⟨_, rfl, .inr (.inr (.inr (.inr ⟨_, _, ‹_›, he⟩)))⟩
  · cases h
    refine ⟨{ s with port := ‹_› }, rfl, ?_⟩
    unfold State.issue
    split
    · exact .inr (.inr (.inl ⟨_, _, ‹_›, rfl⟩))
    · exact .inr (.inl ⟨_, _, ‹_›, not_busy (s := { s with port := ‹_› }) ‹_›, rfl⟩)
  · cases h
    exact ⟨_, rfl, .inl ⟨.inr ⟨_, ‹_›⟩, rfl⟩⟩
  · cases h
    exact ⟨_, rfl, .inr (.inr (.inr (.inl ⟨_, ‹_›, rfl⟩)))⟩

/-! ### What a response leaves alone -/

theorem respond_keeps (s : State) (f : List Byte) : SeqKeeps s (s.respond f) := by
  unfold State.respond
  split
  · exact (recvWith_keeps f s).trans (runPhases_keeps 3 _)
  · simp [SeqKeeps, SameOperands, SameAroundTransaction, SameControl]

/-- One more step of a run. -/
theorem run_step (n : Nat) (s : State) {t : State} (h : step s = .next t) :
    Host.Core.run Sys2Proof.core (n + 1) s = Host.Core.run Sys2Proof.core n t := by
  have e := Host.Core.run.eq_2 Sys2Proof.core s n
  rw [show Sys2Proof.core.step s = .next t from h] at e
  exact e

end Sys2Proof.Machine
end

