-- ==== Sys2Proof/Tests/Slice0.lean ====
section
/-!
SUPPORT. Tests of the model: well-formedness, decoding of words written out from the frame tables, single steps with results
from 95_test_vectors.md, and for each obligation with hypotheses a witness that they can be met.
-/

namespace Sys2Proof.Tests

open Sys2Proof.Machine

/-! ### Data of 95_test_vectors.md -/

/-- The 60 data bytes of P1. -/
def p1Data : List Byte :=
  [0x08, 0x02, 0x01, 0xF4, 0x08, 0x01, 0x00, 0x7B, 0x00, 0xFC, 0x09, 0x60, 0x56, 0x78, 0x12, 0x34, 0xDE, 0xF0, 0x9A, 0xBC]
  ++ [0x00, 0x01, 0x00, 0x02, 0x00, 0x03, 0x00, 0x19, 0x00, 0x00, 0x00, 0x00, 0x00, 0x00, 0x00, 0x01, 0x00, 0x01, 0x00, 0x00]
  ++ [0x00, 0x05, 0x00, 0x0A, 0x17, 0x84, 0x00, 0x71, 0x00, 0x01, 0x00, 0x06, 0x00, 0x00, 0x00, 0x00, 0x00, 0x00, 0x00, 0x03]

/-- The response of P1. -/
def p1Answer : List Byte := [0x01, 0x03, 0x3C] ++ p1Data ++ [0xC6, 0x89]

/-- The block of V5. -/
def v5Block : List Byte :=
  [0x04, 0xB0, 0x01, 0xF4, 0x03, 0xE8, 0x05, 0x14, 0x02, 0x6C, 0x04, 0x10, 0x00, 0x02]
  ++ [0x00, 0x1E, 0x23, 0x45, 0x00, 0x01, 0x78, 0x9A, 0x00, 0x06, 0x00, 0x6E, 0x00, 0x01]

/-- The record r of V5. -/
def v5Record : PresetRecord := ⟨1200, 500, 1000, 1300, 620, 1040, 2, 30, 0x00012345, 0x0006789A, 110, true⟩

/-- The frame of P3. -/
def p3Frame : List Byte := [0x01, 0x10, 0x00, 0x80, 0x00, 0x0E, 0x1C] ++ v5Block ++ [0x47, 0xAF]

/-- The second response of P3. -/
def p3Answer : List Byte := [0x01, 0x03, 0x1C] ++ v5Block ++ [0x4D, 0x2F]

/-! ### Small states -/

/-- An idle block whose transport will take `n` bytes and then deliver `ans`. -/
def scripted (n : Nat) (ans : List Byte) : State :=
  { State.reset with link := { State.reset.link with writeCounts := [n], arrivals := [ans] } }

/-- A block in a phase of a running command. -/
def running (p : Phase) (op : TxOp) (kind : Kind) (tx : Fin 38) (rx : Fin 66) : State :=
  { State.reset with seq := p, cur := ⟨op, kind, tx, rx⟩ }

/-- The state an instruction leads to. -/
def after (i : Instr) (s : State) : State :=
  match exec i s with
  | .next t => t
  | .fault _ => s
  | .refused _ => s

/-- What an instruction answers. -/
def reply (i : Instr) (s : State) : Reply := (after i s).reply

/-- Outcome, exception code, result length. -/
def outcome (i : Instr) (s : State) : ErrCode × Byte × Nat :=
  let t := after i s
  (t.err, t.excCode, t.resultLen.val)

/-- The first `n` bytes of the cache. -/
def withCache (bs : List Byte) : State := { State.reset with cache := Memory.writeAll [] 0 bs, cacheValid := true }

/-! ### Well-formedness -/

theorem test_wf_accepts :
    Instr.wellFormed (.rdreg 0xFFFF 30) = true ∧ Instr.wellFormed (.wrmul 0 14 28 v5Block) = true
      ∧ Instr.wellFormed (.rspR 1 3 60 p1Data 0x89C6) = true ∧ Instr.wellFormed (.rspX 1 6 3 0 (List.replicate 60 0)) = true
      ∧ Instr.wellFormed (.presetRd 9) = true ∧ Instr.wellFormed (.get16 30) = true ∧ Instr.wellFormed (.get32 29) = true
      ∧ Instr.wellFormed (.presetDec v5Block) = true ∧ Instr.wellFormed (.setx 4 0) = true
      ∧ Instr.wellFormed (.setdata 27 0) = true := by decide

theorem test_wf_refuses_rdreg_count :
    Instr.wellFormed (.rdreg 0 0) = false ∧ Instr.wellFormed (.rdreg 0 31) = false := by decide
theorem test_wf_refuses_wrmul_count :
    Instr.wellFormed (.wrmul 0 0 0 []) = false ∧ Instr.wellFormed (.wrmul 0 15 30 (List.replicate 30 0)) = false := by decide
theorem test_wf_refuses_wrmul_bytecount :
    Instr.wellFormed (.wrmul 0 2 3 [0, 0, 0]) = false ∧ Instr.wellFormed (.wrmul 0 1 2 [0]) = false := by decide
theorem test_wf_refuses_rspR_data :
    Instr.wellFormed (.rspR 1 3 0 [] 0) = false ∧ Instr.wellFormed (.rspR 1 3 1 [0, 0, 0] 0) = false
      ∧ Instr.wellFormed (.rspR 1 3 62 (List.replicate 62 0) 0) = false := by decide
theorem test_wf_refuses_rspX_tail : Instr.wellFormed (.rspX 1 3 2 0 (List.replicate 61 0)) = false := by decide
theorem test_wf_refuses_slots :
    Instr.wellFormed (.presetRd 10) = false ∧ Instr.wellFormed (.presetWr 10) = false
      ∧ Instr.wellFormed (.presetAddr 10) = false := by decide
theorem test_wf_refuses_indices :
    Instr.wellFormed (.get16 31) = false ∧ Instr.wellFormed (.get32 30) = false ∧ Instr.wellFormed (.getflag 31) = false
      ∧ Instr.wellFormed (.setx 5 0) = false ∧ Instr.wellFormed (.setdata 28 0) = false := by decide
theorem test_wf_refuses_block_length : Instr.wellFormed (.presetDec (List.replicate 27 0)) = false := by decide

/-! ### Decoding words written out from the frame tables (R61 to R67) -/

theorem test_decode_rdreg :
    decodeRequest [0x01, 0x03, 0x00, 0x1D, 0x00, 0x01, 0x14, 0x0C] = .ok (0x01, .rdreg 0x001D 1) := by decide +kernel
theorem test_decode_rdreg_top :
    decodeRequest [0xFF, 0x03, 0xFF, 0xFF, 0x00, 0x1E, 0xD0, 0x38] = .ok (0xFF, .rdreg 0xFFFF 30) := by decide +kernel
theorem test_decode_wrreg :
    decodeRequest [0x01, 0x06, 0x00, 0x1D, 0x00, 0x03, 0x59, 0xCD] = .ok (0x01, .wrreg Config.presetSelectReg 3) := by
  decide +kernel
theorem test_decode_wrmul :
    decodeRequest [0x01, 0x10, 0x00, 0x00, 0x00, 0x02, 0x04, 0x08, 0x02, 0x01, 0xF4, 0x50, 0x18]
      = .ok (0x01, .wrmul 0x0000 2 4 [0x08, 0x02, 0x01, 0xF4]) := by decide +kernel
theorem test_decode_refresh_words :
    decodeRequest [0x01, 0x03, 0x00, 0x00, 0x00, 0x1E, 0xC5, 0xC2] = .ok (0x01, Instr.expand zeroRecord .refresh) := by
  decide +kernel
theorem test_decode_presetRd_words :
    decodeRequest [0x01, 0x03, 0x00, 0x80, 0x00, 0x0E, 0xC5, 0xE6] = .ok (0x01, Instr.expand zeroRecord (.presetRd 3)) := by
  decide +kernel
theorem test_decode_presetWr_words :
    decodeRequest p3Frame = .ok (0x01, Instr.expand v5Record (.presetWr 3)) := by decide +kernel
theorem test_decode_setVolt_words :
    decodeRequest [0x01, 0x06, 0x00, 0x00, 0x08, 0x02, 0x0F, 0xCB] = .ok (0x01, Instr.expand zeroRecord (.setVolt 2050)) := by
  decide +kernel
theorem test_decode_rspR :
    decodeResponse .read [0x01, 0x03, 0x02, 0x00, 0x03, 0xF8, 0x45] = .ok (.rspR 0x01 0x03 2 [0x00, 0x03] 0x45F8) := by
  decide
theorem test_decode_rspW1 :
    decodeResponse .write1 [0x01, 0x06, 0x00, 0x00, 0x08, 0x02, 0x0F, 0xCB]
      = .ok (.rspW1 0x01 0x06 0x0000 0x0802 0xCB0F) := by decide
theorem test_decode_rspWn :
    decodeResponse .writeN [0x01, 0x10, 0x00, 0x50, 0x00, 0x01, 0x01, 0xD8]
      = .ok (.rspWn 0x01 0x10 0x0050 0x0001 0xD801) := by decide
theorem test_decode_rspX :
    decodeResponse .write1 [0x01, 0x86, 0x03, 0x02, 0x61, 0x00, 0x00, 0x00]
      = .ok (.rspX 0x01 0x06 0x03 0x6102 [0x00, 0x00, 0x00]) := by decide
theorem test_decode_refuses_wrong_checksum :
    decodeRequest [0x01, 0x06, 0x00, 0x00, 0x08, 0x02, 0x0F, 0xCA] = .error .badChecksum := by decide +kernel
theorem test_decode_refuses_other_function_code :
    decodeRequest [0x01, 0x04, 0x00, 0x00, 0x00, 0x1E, 0xC5, 0xC2] = .error (.unknownFunction 0x04) := by decide +kernel

/-- Words that are never built (R71 (a)) decode to an ill-formed instruction (log entry 11). -/
theorem test_decode_unbuildable :
    decodeRequest (appendCrc [0x01, 0x03, 0x00, 0x00, 0x00, 0x1F]) = .ok (0x01, .rdreg 0 31)
      ∧ Instr.wellFormed (.rdreg 0 31) = false := by decide +kernel

/-- R6: the longest request and the longest response; R5: 31 registers of two bytes. -/
theorem test_sizes :
    Config.txbufBytes = 7 + 2 * Config.maxWriteCount + 2 ∧ Config.rxbufBytes = 5 + 2 * Config.maxReadCount
      ∧ Config.cacheBytes = 2 * Config.cacheRegs := by decide

/-- The words of the opcode table, each function code's. -/
theorem test_table_words :
    decodeTableWord 8 0x03 = some (.rdreg 0 0) ∧ decodeTableWord 8 0x06 = some (.wrreg 0 0)
      ∧ decodeTableWord 8 0x10 = some (.wrmul 0 0 0 []) ∧ decodeTableWord 40 0x030000001E = some .refresh
      ∧ decodeTableWord 24 0x060000 = some (.setVolt 0)
      ∧ (decodeTableWord 8 0x00).isSome = true ∧ (decodeTableWord 8 0x80).isSome = true := by decide +kernel

/-! ### Single steps, results from 95_test_vectors.md -/

/-- V4, `RDREG 0x0000, 1`. -/
theorem test_rdreg :
    let t := after (.rdreg 0 1) (scripted 8 [0x01, 0x03, 0x02, 0x08, 0x02, 0x3E, 0x45])
    t.err = .ok ∧ t.resultLen.val = 3 ∧ t.resultBytes = [0x02, 0x08, 0x02]
      ∧ t.link.trace.head? = some (.setReadTimeout 10) := by decide +kernel

/-- V4: the function code's low bits are not compared; a count of 31 is an argument error even without a transport. -/
theorem test_rdreg_gates :
    outcome (.rdreg 0 1) (scripted 8 [0x01, 0x04, 0x02, 0x08, 0x02, 0x3F, 0x31]) = (.ok, 0x00, 3)
      ∧ outcome (.rdreg 0 31) { State.reset with link := { State.reset.link with present := false } }
        = (.invalidArgument, 0x00, 0) := by decide +kernel

/-- V4, four rows. -/
theorem test_wrreg_failures :
    outcome (.wrreg 0 2050) (scripted 9 []) = (.transportWriteIncomplete, 0x00, 0)
      ∧ outcome (.wrreg 0 2050) (scripted 8 [0x01, 0x86, 0x03, 0x02, 0x61]) = (.transportReadIncomplete, 0x00, 0)
      ∧ outcome (.wrreg 0 2050) (scripted 8 [0x01, 0x86, 0x03, 0xFF, 0xFF, 0xFF, 0xFF, 0xFF]) = (.deviceException, 0x03, 0)
      ∧ outcome (.wrreg 0 2050) (scripted 8 [0x01, 0x06, 0x00, 0x00, 0x08, 0x02, 0x0F, 0xCA])
        = (.checksumMismatch, 0x00, 0) := by decide +kernel

/-- V4: the echo differs from the request, the checksum is right. -/
theorem test_wrreg_echo :
    let t := after (.wrreg 0 2050) (scripted 8 [0x01, 0x06, 0x00, 0x00, 0x08, 0x03, 0xCE, 0x0B])
    t.err = .ok ∧ t.resultBytes = [0x00, 0x00, 0x08, 0x03] := by decide +kernel

/-- R112's example. -/
theorem test_wrmul :
    let t := after (.wrmul 0x0050 1 2 [0x04, 0xB0]) (scripted 11 [0x01, 0x10, 0x00, 0x50, 0x00, 0x01, 0x01, 0xD8])
    t.err = .ok ∧ t.resultBytes = [0x00, 0x50, 0x00, 0x01]
      ∧ t.link.trace[1]? = some (.write [0x01, 0x10, 0x00, 0x50, 0x00, 0x01, 0x02, 0x04, 0xB0, 0xA9, 0x74] 11) := by
  decide +kernel

/-- V3: byte count ≠ 2 × count. -/
theorem test_wrmul_bytecount : outcome (.wrmul 0 14 27 []) (scripted 8 []) = (.invalidArgument, 0x00, 0) := by decide +kernel

/-- P1. -/
theorem test_refresh :
    let t := after .refresh (scripted 8 p1Answer)
    t.err = .ok ∧ t.resultLen.val = 61 ∧ t.cacheValid = true ∧ t.bytesAt .cache 0 60 = p1Data := by decide +kernel

/-- P2, answer C: the cache of P1 stands, the exception code is 2. -/
theorem test_refresh_fails :
    let s := { scripted 8 ([0x01, 0x83, 0x02] ++ List.replicate 62 0x00) with cache := (withCache p1Data).cache }
    outcome .refresh s = (.deviceException, 0x02, 0) ∧ (after .refresh s).cache = s.cache := by decide +kernel

/-- P3, second transaction. -/
theorem test_presetRd :
    let t := after (.presetRd 3) (scripted 8 p3Answer)
    t.pr = v5Record ∧ t.resultLen.val = 29 ∧ t.cacheValid = false
      ∧ t.link.trace[1]? = some (.write [0x01, 0x03, 0x00, 0x80, 0x00, 0x0E, 0xC5, 0xE6] 8) := by decide +kernel

/-- P3, variant: slot 10. -/
theorem test_presetRd_slot :
    let t := after (.presetRd 10) (scripted 8 p3Answer)
    t.err = .invalidArgument ∧ t.link.trace = [] ∧ t.pr = zeroRecord := by decide +kernel

/-- P3, first transaction. -/
theorem test_presetWr :
    let t := after (.presetWr 3) { scripted 37 [0x01, 0x10, 0x00, 0x80, 0x00, 0x0E, 0x40, 0x25] with pr := v5Record }
    t.err = .ok ∧ t.resultBytes = [0x00, 0x80, 0x00, 0x0E] ∧ t.link.trace[1]? = some (.write p3Frame 37) := by
  decide +kernel

/-- V6: `SET_T_WRITE 100`, then `SET_VOLT 2050`. -/
theorem test_setVolt :
    let t := after (.setVolt 2050)
      (after (.setTWrite 100) (scripted 8 [0x01, 0x06, 0x00, 0x00, 0x08, 0x02, 0x0F, 0xCB]))
    t.err = .ok ∧ t.link.trace.take 2
      = [.setReadTimeout 100, .write [0x01, 0x06, 0x00, 0x00, 0x08, 0x02, 0x0F, 0xCB] 8] := by decide +kernel

/-- P4: the cache still holds the old setpoint. -/
theorem test_setVolt_stale :
    let t := after (.setVolt 2100) { scripted 8 [0x01, 0x06, 0x00, 0x00, 0x08, 0x34, 0x8F, 0xDD] with
      cache := (withCache p1Data).cache }
    t.err = .ok ∧ reply .getSetVolt t = .word 2050 := by decide +kernel

/-- V1. -/
theorem test_crc16 :
    reply (.crc16 []) State.reset = .word 0xFFFF ∧ reply (.crc16 [0x00]) State.reset = .word 0x40BF
      ∧ reply (.crc16 [0x01, 0x03]) State.reset = .word 0x2140 ∧ reply (.crc16 [0xFF, 0xFF]) State.reset = .word 0x0000 := by
  decide +kernel

/-- V5, the getters on the cache of P1. -/
theorem test_get16 :
    reply (.get16 0) (withCache p1Data) = .word 2050 ∧ reply (.get16 22) (withCache p1Data) = .word 6020
      ∧ reply (.get16 29) (withCache p1Data) = .word 3 ∧ reply (.get16 31) (withCache p1Data) = .refused .range := by
  decide +kernel
theorem test_get32 :
    reply (.get32 6) (withCache p1Data) = .dword 0x12345678 ∧ reply (.get32 8) (withCache p1Data) = .dword 0x9ABCDEF0
      ∧ reply (.get32 30) (withCache p1Data) = .refused .range := by decide +kernel
theorem test_getflag :
    reply (.getflag 18) (withCache p1Data) = .flag true ∧ reply (.getflag 19) (withCache p1Data) = .flag false
      ∧ reply (.getflag 18) (withCache (p1Data.take 36 ++ [0x01, 0x00])) = .flag false := by decide +kernel
theorem test_getSetVolt : reply .getSetVolt (withCache p1Data) = .word 2050 := by decide +kernel

/-- V5. -/
theorem test_presetAddr :
    reply (.presetAddr 0) State.reset = .word 0x0050 ∧ reply (.presetAddr 9) State.reset = .word 0x00E0
      ∧ reply (.presetAddr 10) State.reset = .refused .range := by decide
theorem test_presetDec :
    reply (.presetDec v5Block) State.reset = .record v5Record
      ∧ reply (.presetDec (v5Block.take 26 ++ [0x01, 0x00])) State.reset = .record { v5Record with init := false }
      ∧ reply (.presetDec (v5Block.take 26 ++ [0x00, 0x02])) State.reset = .record v5Record := by decide +kernel
theorem test_presetEnc : reply (.presetEnc v5Record) State.reset = .bytes v5Block := by decide +kernel

/-- P5: the frame carries the new address. -/
theorem test_setDevaddr :
    (after .refresh (after (.setDevaddr 2) (scripted 8 []))).link.trace.take 2
      = [.setReadTimeout 10, .write [0x02, 0x03, 0x00, 0x00, 0x00, 0x1E, 0xC5, 0xF1] 8] := by decide +kernel

/-- V6: refused while a command runs. -/
theorem test_setDevaddr_busy :
    let t := after (.setDevaddr 7) (running .send .rdreg .read 8 7)
    t.devaddr = 1 ∧ t.reply = .refused .busy := by decide

/-- R141, R143: their own registers. -/
theorem test_delays :
    let t := after (.setTSettle 0) (after (.setTRead 20) State.reset)
    t.tReadMs = 20 ∧ t.tWriteMs = 40 ∧ t.tSettleMs = 0 := by decide

/-- R144: truncation to the register's width, and an index outside 0..4. -/
theorem test_setx :
    (after (.setx 3 0x1234) State.reset).x3 = 0x34 ∧ reply (.setx 5 1) State.reset = .refused .range := by decide
theorem test_setdata :
    (after (.setdata 27 0xAB) State.reset).data = [(27, 0xAB)] ∧ reply (.setdata 28 0xAB) State.reset = .refused .range := by
  decide
theorem test_setpr :
    (after (.setpr .oac 0x00012345) State.reset).pr.oac = 0x00012345
      ∧ (after (.setpr .init 1) State.reset).pr.init = true := by decide

/-- R27: BUSY, ERR = 5, CACHE_VALID, TRANSPORT_PRESENT. -/
theorem test_getstatus :
    reply .getstatus State.reset = .status 0b100000 0 0
      ∧ reply .getstatus { withCache p1Data with err := .deviceException, excCode := 3 } = .status 0b111010 3 0
      ∧ reply .getstatus (running .send .rdreg .read 8 7) = .status 0b100001 0 0 := by decide +kernel
theorem test_getresult :
    reply .getresult { State.reset with resultLen := 2, rxbuf := [(2, 0x02), (3, 0x08)] } = .bytes [0x02, 0x08] := by
  decide +kernel
theorem test_getpr : reply .getpr { State.reset with pr := v5Record } = .record v5Record := by decide

/-- V4: the response row that a waiting `RDREG 0, 1` gets. -/
theorem test_rspR :
    let t := after (.rspR 0x01 0x03 2 [0x08, 0x02] 0x453E) (running .recv .rdreg .read 8 7)
    t.err = .ok ∧ t.seq = .idle ∧ t.resultBytes = [0x02, 0x08, 0x02] := by decide +kernel
theorem test_rspW1 :
    let t := after (.rspW1 0x02 0x06 0x0000 0x0802 0xF80F) (running .recv .wrreg .write1 8 8)
    t.err = .ok ∧ t.resultBytes = [0x00, 0x00, 0x08, 0x02] := by decide +kernel
theorem test_rspW1_corrupt :
    outcome (.rspW1 0x01 0x06 0x0000 0x0803 0xCB0F) (running .recv .wrreg .write1 8 8) = (.checksumMismatch, 0x00, 0) := by
  decide +kernel
theorem test_rspWn :
    let t := after (.rspWn 0x01 0x10 0x0080 0x000E 0x2540) (running .recv .presetWr .writeN 37 8)
    t.err = .ok ∧ t.resultBytes = [0x00, 0x80, 0x00, 0x0E] := by decide +kernel
theorem test_rspX :
    outcome (.rspX 0x01 0x06 0x03 0x6102 [0x00, 0x00, 0x00]) (running .recv .wrreg .write1 8 8) = (.deviceException, 0x03, 0)
      ∧ outcome (.rspX 0x01 0x06 0x03 0x6102 []) (running .recv .wrreg .write1 8 8)
        = (.transportReadIncomplete, 0x00, 0) := by decide +kernel

/-! ### Witnesses: for each obligation with hypotheses, operands and states that meet them -/

theorem witness_DecodeOfEncodeGivesTheInstruction :
    (Instr.wellFormed (.wrmul 0xFFFF 14 28 v5Block) = true
      ∧ (encode 0xFF v5Record (.wrmul 0xFFFF 14 28 v5Block)).isSome = true)
    ∧ (Instr.wellFormed (.presetWr 9) = true ∧ (encode 1 v5Record (.presetWr 9)).isSome = true)
    ∧ (Instr.wellFormed (.rspR 1 0x7F 60 p1Data 0) = true ∧ (encode 1 v5Record (.rspR 1 0x7F 60 p1Data 0)).isSome = true)
    ∧ (Instr.wellFormed (.rspW1 1 6 0 0 0) = true ∧ (encode 1 v5Record (.rspW1 1 6 0 0 0)).isSome = true)
    ∧ (Instr.wellFormed (.rspWn 1 0x10 0 0 0) = true ∧ (encode 1 v5Record (.rspWn 1 0x10 0 0 0)).isSome = true)
    ∧ (Instr.wellFormed (.rspX 1 6 2 0 []) = true ∧ (encode 1 v5Record (.rspX 1 6 2 0 [])).isSome = true) := by
  decide +kernel

theorem witness_EncodeOfDecodedGivesTheFrame :
    decodeRequest [0xFF, 0x03, 0xFF, 0xFF, 0x00, 0x1E, 0xD0, 0x38] = .ok (0xFF, .rdreg 0xFFFF 30)
    ∧ decodeResponse .writeN [0x01, 0x10, 0x00, 0x50, 0x00, 0x01, 0x01, 0xD8] = .ok (.rspWn 1 0x10 0x50 1 0xD801) := by
  decide +kernel

theorem witness_FrameBuilderSendsTheEncodedWords :
    State.request { State.reset with x1 := 30 } .rdreg = some (.read 0 30)
    ∧ (State.request { State.reset with x4 := 9 } .presetWr).isSome = true
    ∧ State.request State.reset .setVolt = some (.write1 0 0) := by decide

theorem witness_OneWrongByteIsAlwaysCaught :
    let r : List Byte := [0x01, 0x83, 0x02, 0xC0, 0xF1]
    2 ≤ r.length ∧ 4 < r.length ∧ crcMatches r = true ∧ r.getD 0 0#8 ≠ 0x02#8 ∧ r.getD 4 0#8 ≠ 0xF0#8
      ∧ crcMatches [0xFF, 0xFF] = true := by decide +kernel

theorem witness_PresetRoundTrip :
    v5Block.length = 28 ∧ (v5Block.set 27 0x02).length = 28 ∧ (v5Block.set 26 0x01).length = 28 := by decide

theorem witness_PresetDecReadsTheBlock : v5Block.length = 28 := by decide

theorem witness_PresetAddrIsBasePlusStride : (0x09#8).toNat < 10 ∧ (0x00#8).toNat < 10 := by decide

theorem witness_PresetCommandsStayInsideTheirBlock :
    State.x4 { State.reset with x4 := 9 } = 9#8 ∧ (9#8).toNat < 10 := by decide

/-- A command in the middle of its run: RDREG 0, 1 with its frame in TXBUF, after an earlier REFRESH. -/
def midCommand : State :=
  { running .send .rdreg .read 8 7 with
    x1 := 1
    txbuf := Memory.writeAll [] 0 [0x01, 0x03, 0x00, 0x00, 0x00, 0x01, 0x84, 0x0A]
    cache := Memory.writeAll [] 0 p1Data
    cacheValid := true }

theorem midCommand_inv : midCommand.Inv := by
  refine ⟨⟨by decide, by decide +kernel, by decide, by decide +kernel⟩,
    ⟨by decide, by decide, by decide⟩, ⟨by decide, fun _ => by decide +kernel⟩, fun _ => ?_, by decide, by decide⟩
  exact ⟨rfl, .read 0 1, by decide, by decide, fun _ => by decide +kernel⟩

theorem witness_Get16AnswersTheBigEndianWord : (30 : Nat) ≤ 30 ∧ midCommand.Inv := ⟨by decide, midCommand_inv⟩

theorem witness_Get32CombinesTwoRegisters : (29 : Nat) ≤ 29 ∧ (0 : Nat) ≤ 29 := by decide

theorem witness_GetflagTestsTheLowByte : (30 : Nat) ≤ 30 ∧ (0 : Nat) ≤ 30 := by decide

theorem witness_OutOfRangeOperandsAreTurnedAway :
    State.reset.seq = .idle ∧ Instr.wellFormed (.get16 31) = false ∧ Instr.wellFormed (.get32 30) = false
      ∧ Instr.wellFormed (.getflag 31) = false ∧ Instr.wellFormed (.presetAddr 10) = false
      ∧ Instr.wellFormed (.presetDec []) = false ∧ Instr.wellFormed (.setx 5 0) = false
      ∧ Instr.wellFormed (.setdata 28 0) = false := by decide

theorem witness_SetDevaddrWritesTheAddress : State.reset.seq = .idle := by decide

theorem witness_DelayCommandsSetWhatTransactionsUse :
    State.reset.seq = .idle
      ∧ ((running .timeout .rdreg .read 8 7).seq = .timeout ∧ (running .timeout .rdreg .read 8 7).cur.kind = .read
          ∧ (running .timeout .rdreg .read 8 7).tReadMs = 10)
      ∧ ((running .timeout .wrreg .write1 8 8).seq = .timeout ∧ (running .timeout .wrreg .write1 8 8).cur.kind ≠ .read
          ∧ (running .timeout .wrreg .write1 8 8).tWriteMs = 40)
      ∧ ((running .settle .wrreg .write1 8 8).seq = .settle ∧ (running .settle .wrreg .write1 8 8).tSettleMs = 5) := by
  decide

theorem witness_SetxWritesOneOperandRegister : State.reset.seq = .idle := by decide
theorem witness_SetdataWritesOneByte : State.reset.seq = .idle ∧ (27 : Nat) ≤ 27 ∧ (0 : Nat) ≤ 27 := by decide
theorem witness_SetprWritesOneField : State.reset.seq = .idle := by decide

theorem witness_StatusReadsAnswerAtAnyTime :
    let s : State := { State.reset with resultLen := 61 }
    s.seq = .idle ∧ s.err = .ok ∧ 60 < s.resultLen.val := by decide

theorem witness_AcceptanceStartsTheCommandOrRefusesIt :
    let s : State := { State.reset with port := [.issue .refresh] }
    let t : State := { running .check .rdreg .read 0 0 with port := [.issue .refresh] }
    (s.port = .issue .refresh :: [] ∧ s.seq = .idle) ∧ (t.port = .issue .refresh :: [] ∧ t.seq ≠ .idle) := by decide

/-- The bounds of each argument test: 0, 1, 30, 31; 14, 15 and the byte count; 9, 10; with and without a transport. -/
theorem witness_CheckGateTestsArgumentsThenPresence :
    let s := running .check .rdreg .read 0 0
    let m := running .check .wrmul .writeN 0 0
    let p := running .check .presetRd .read 0 0
    s.seq = .check ∧ s.x1.toNat < 1 ∧ 30 < (State.x1 { s with x1 := 31 }).toNat
      ∧ (¬ (State.x1 { s with x1 := 30 }).toNat < 1 ∧ ¬ 30 < (State.x1 { s with x1 := 30 }).toNat ∧ s.link.present = true)
      ∧ 14 < (State.x1 { m with x1 := 15 }).toNat
      ∧ (State.x3 { m with x1 := 14, x3 := 27 }).toNat ≠ 2 * (State.x1 { m with x1 := 14, x3 := 27 }).toNat
      ∧ 10 ≤ (State.x4 { p with x4 := 10 }).toNat ∧ ¬ 10 ≤ (State.x4 { p with x4 := 9 }).toNat
      ∧ State.seq { s with x1 := 1, link := { s.link with present := false } } = .check
      ∧ Link.present { s.link with present := false } = false := by decide

theorem witness_BuildPhaseAssemblesTheFrame :
    let s : State := { running .build .wrmul .writeN 0 0 with x1 := 14, x3 := 28, data := Memory.writeAll [] 0 v5Block }
    s.seq = .build ∧ s.request s.cur.op = some (.writeN 0 14 28 v5Block) := by decide +kernel

theorem witness_TimeoutPhaseSetsTheReadTimeout :
    (running .timeout .rdreg .read 8 7).seq = .timeout ∧ (running .timeout .rdreg .read 8 7).cur.kind = .read
      ∧ (running .timeout .wrreg .write1 8 8).cur.kind = .write1
      ∧ (running .timeout .wrmul .writeN 11 8).cur.kind = .writeN := by decide

/-- One byte fewer, all, one byte more. -/
theorem witness_SendPhaseWritesTheWholeFrameOnce :
    let s : Nat → State := fun n => { running .send .rdreg .read 8 7 with link := (scripted n []).link }
    (s 7).seq = .send ∧ (s 7).link.nextCount ≠ (s 7).cur.txLen.val ∧ (s 8).link.nextCount = (s 8).cur.txLen.val
      ∧ (s 9).link.nextCount ≠ (s 9).cur.txLen.val := by decide

/-- One byte fewer, all, one byte more. -/
theorem witness_RecvPhaseStoresWhatArrived :
    let s : Nat → State := fun n => { running .recv .rdreg .read 8 7 with link := (scripted 0 (List.replicate n 0)).link }
    (s 6).seq = .recv ∧ ((s 6).link.held ++ (s 6).link.nextArrivals).length < (s 6).cur.rxLen.val
      ∧ (s 7).cur.rxLen.val ≤ ((s 7).link.held ++ (s 7).link.nextArrivals).length
      ∧ (s 8).cur.rxLen.val ≤ ((s 8).link.held ++ (s 8).link.nextArrivals).length := by decide

theorem witness_ExcPhaseTestsBitSevenOnly :
    let s : Byte → State := fun b => { running .exc .rdreg .read 8 7 with rxbuf := [(1, b)] }
    (s 0x80).seq = .exc ∧ ((s 0x80).byteAt .rxbuf 1).getLsbD 7 = true ∧ ((s 0x7F).byteAt .rxbuf 1).getLsbD 7 = false := by
  decide +kernel

theorem witness_CrcPhaseComparesAllSixteenBits :
    let s : List Byte → State := fun r => { running .crc .rdreg .read 8 7 with rxbuf := Memory.writeAll [] 0 r }
    let good := s [0x01, 0x03, 0x02, 0x00, 0x03, 0xF8, 0x45]
    let bad := s [0x01, 0x03, 0x02, 0x00, 0x03, 0xF8, 0x44]
    good.seq = .crc ∧ 2 ≤ good.cur.rxLen.val
      ∧ crc16 (good.bytesAt .rxbuf 0 5) = be16 (good.byteAt .rxbuf 6) (good.byteAt .rxbuf 5)
      ∧ crc16 (bad.bytesAt .rxbuf 0 5) ≠ be16 (bad.byteAt .rxbuf 6) (bad.byteAt .rxbuf 5) := by decide +kernel

theorem witness_DeliverPhasePublishes :
    (running .deliver .refresh .read 8 65).seq = .deliver ∧ (running .deliver .refresh .read 8 65).cur.op = .refresh
      ∧ (running .deliver .presetRd .read 8 33).cur.op = .presetRd
      ∧ (running .deliver .rdreg .read 8 7).cur.op ≠ .refresh ∧ (running .deliver .rdreg .read 8 7).cur.op ≠ .presetRd := by
  decide

theorem witness_SequencerOnlyMovesForward :
    (running .check .rdreg .read 0 0).seq ≠ .idle ∧ State.reset.seq = .idle
      ∧ (running .timeout .rdreg .read 8 7).seq = .timeout ∧ (running .settle .rdreg .read 8 7).seq = .settle
      ∧ (running .deliver .rdreg .read 8 7).seq = .deliver := by decide

/-- The seven outcomes, from idle states: the rows of V4. -/
theorem witness_OutcomeIsTheFirstFailedGate :
    let v : Nat → List Byte → ErrCode := fun n r => (scripted n r).verdict .wrreg
    (scripted 8 []).seq = .idle ∧ State.reset.verdict .rdreg = .invalidArgument
      ∧ State.verdict { State.reset with link := { State.reset.link with present := false } } .wrreg = .transportUnavailable
      ∧ v 5 [] = .transportWriteIncomplete ∧ v 8 [0x01, 0x86, 0x03, 0x02, 0x61] = .transportReadIncomplete
      ∧ v 8 [0x01, 0x86, 0x03, 0x02, 0x61, 0x00, 0x00, 0x00] = .deviceException
      ∧ v 8 [0x01, 0x06, 0x00, 0x00, 0x08, 0x03, 0x0F, 0xCB] = .checksumMismatch
      ∧ v 8 [0x01, 0x06, 0x00, 0x00, 0x08, 0x02, 0x0F, 0xCB] = .ok := by decide +kernel

theorem witness_TraceIsCutWhereTheCommandEnds :
    (scripted 8 []).seq = .idle ∧ (scripted 5 []).verdict .wrreg = .transportWriteIncomplete := by decide +kernel

theorem witness_FailureLeavesLocalStateAlone :
    (scripted 5 []).seq = .idle ∧ (scripted 5 []).verdict .refresh ≠ .ok
      ∧ (scripted 8 p1Answer).verdict .refresh = .ok ∧ TxOp.rdreg ≠ .refresh ∧ TxOp.rdreg ≠ .presetRd := by decide +kernel

/-- Two states that differ in the cache, the scratch buffers and the previous outcome. -/
theorem witness_OutcomeDependsOnOperandsAndTransportOnly :
    let s := scripted 8 p1Answer
    let t : State := { s with err := .checksumMismatch, cache := midCommand.cache, cacheValid := true, rxbuf := [(0, 1)] }
    s.seq = .idle ∧ t.seq = .idle ∧ SameOperands s t ∧ SameControl s t ∧ t.pr = s.pr ∧ SameBytes .data s t
      ∧ t.link.present = s.link.present ∧ t.link.nextCount = s.link.nextCount
      ∧ ∀ len, t.link.answerTo len = s.link.answerTo len :=
  ⟨rfl, rfl, ⟨rfl, rfl, rfl, rfl, rfl⟩, ⟨rfl, rfl, rfl, rfl⟩, rfl, fun _ => rfl, rfl, rfl, fun _ => rfl⟩

theorem witness_ImmediateCommandIsLoadsIssueAndPhases :
    State.reset.seq = .idle ∧ (Instr.turns (.wrmul 0x50 1 2 [0x04, 0xB0])).isSome = true
      ∧ (Instr.turns .refresh).isSome = true := by decide

/-- Counts 1 and 30. -/
theorem witness_RdregReadsRegisters :
    (1 ≤ (1#16).toNat ∧ (1#16).toNat ≤ 30
      ∧ State.Ready (scripted 8 [0x01, 0x03, 0x02, 0x08, 0x02, 0x3E, 0x45])
          (appendCrc [0x01, 0x03, 0x00, 0x00, 0x00, 0x01]) 7)
    ∧ ((30#16).toNat ≤ 30
      ∧ State.Ready (scripted 8 p1Answer) (appendCrc [0x01, 0x03, 0x00, 0x00, 0x00, 0x1E]) 65) := by decide +kernel

theorem witness_WrregAndSetVoltWriteOneRegister :
    State.Ready (scripted 8 [0x01, 0x06, 0x00, 0x00, 0x08, 0x03, 0xCE, 0x0B])
      (appendCrc [0x01, 0x06, 0x00, 0x00, 0x08, 0x02]) 8 := by decide +kernel

/-- Counts 1 and 14. -/
theorem witness_WrmulWritesRegisters :
    (1 ≤ (1#16).toNat ∧ (1#16).toNat ≤ 14 ∧ (2#8).toNat = 2 * (1#16).toNat
      ∧ ([0x04, 0xB0] : List Byte).length = (2#8).toNat
      ∧ State.Ready (scripted 11 [0x01, 0x10, 0x00, 0x50, 0x00, 0x01, 0x01, 0xD8])
          (appendCrc ([0x01, 0x10, 0x00, 0x50, 0x00, 0x01, 0x02] ++ [0x04, 0xB0])) 8)
    ∧ ((14#16).toNat ≤ 14 ∧ (28#8).toNat = 2 * (14#16).toNat ∧ v5Block.length = (28#8).toNat
      ∧ State.Ready (scripted 37 [0x01, 0x10, 0x00, 0x80, 0x00, 0x0E, 0x40, 0x25])
          (appendCrc ([0x01, 0x10, 0x00, 0x80, 0x00, 0x0E, 0x1C] ++ v5Block)) 8) := by decide +kernel

theorem witness_RefreshFillsTheCache :
    State.Ready (scripted 8 p1Answer) (appendCrc [0x01, 0x03, 0x00, 0x00, 0x00, 0x1E]) 65 := by decide +kernel

/-- Slots 0 and 9. -/
theorem witness_PresetRdFillsThePresetRecord :
    (0#8).toNat < 10 ∧ (9#8).toNat < 10
      ∧ State.Ready (scripted 8 p3Answer) (appendCrc [0x01, 0x03, 0x00, 0x50, 0x00, 0x0E]) 33
      ∧ State.Ready (scripted 8 p3Answer) (appendCrc [0x01, 0x03, 0x00, 0xE0, 0x00, 0x0E]) 33 := by decide +kernel

theorem witness_PresetWrSendsThePresetRecord :
    (3#8).toNat < 10
      ∧ State.Ready { scripted 37 [0x01, 0x10, 0x00, 0x80, 0x00, 0x0E, 0x40, 0x25] with pr := v5Record }
          (appendCrc ([0x01, 0x10, 0x00, 0x80, 0x00, 0x0E, 0x1C] ++ presetEnc v5Record)) 8 := by decide +kernel

/-- Ten bytes for an eight-byte response. -/
theorem witness_LeftoverBytesComeFirstNextTime :
    let s := scripted 8 [0x01, 0x06, 0x00, 0x00, 0x08, 0x02, 0x0F, 0xCB, 0xAA, 0xBB]
    s.seq = .idle ∧ s.verdict .wrreg ≠ .invalidArgument ∧ s.verdict .wrreg ≠ .transportUnavailable
      ∧ s.verdict .wrreg ≠ .transportWriteIncomplete := by decide +kernel

theorem witness_RspRDeliversTheRegisterData :
    (let s := running .recv .refresh .read 8 65
     s.seq = .recv ∧ s.link.held = [] ∧ s.cur.rxLen.val = 5 + p1Data.length ∧ s.cur.op = .refresh ∧ 60 ≤ p1Data.length
      ∧ 0x89C6#16 = crc16 ([0x01#8, responseFunc false 0x03, 60#8] ++ p1Data))
    ∧ (let s := running .recv .presetRd .read 8 33
       s.cur.rxLen.val = 5 + v5Block.length ∧ s.cur.op = .presetRd ∧ 28 ≤ v5Block.length
        ∧ 0x2F4D#16 = crc16 ([0x01#8, responseFunc false 0x03, 28#8] ++ v5Block)) := by decide +kernel

theorem witness_RspW1AndRspWnAcknowledgeTheWrite :
    let s := running .recv .wrreg .write1 8 8
    s.seq = .recv ∧ s.link.held = [] ∧ s.cur.rxLen.val = 8 ∧ s.cur.op ≠ .refresh ∧ s.cur.op ≠ .presetRd
      ∧ 0xCB0F#16
        = crc16 [0x01#8, responseFunc false 0x06, hi8 0x0000#16, lo8 0x0000#16, hi8 0x0802#16, lo8 0x0802#16] := by
  decide +kernel

/-- The shortest expected length, with one byte missing and with none missing. -/
theorem witness_RspXReportsTheDeviceException :
    let s := running .recv .rdreg .read 8 7
    s.seq = .recv ∧ s.link.held = [] ∧ 7 ≤ s.cur.rxLen.val ∧ s.cur.rxLen.val ≤ 5 + ([0, 0] : List Byte).length
      ∧ 5 + ([0] : List Byte).length < s.cur.rxLen.val := by decide

theorem witness_EarlyOrLateResponsesAreHeld :
    Instr.isResponse (.rspW1 1 6 0 0 0) = true ∧ State.reset.seq ≠ .recv
      ∧ (encode State.reset.devaddr v5Record (.rspW1 1 6 0 0 0)).isSome = true := by decide

theorem witness_ResponseIsArrivalAndFourSteps :
    Instr.isResponse (.rspX 1 6 2 0 []) = true ∧ (running .recv .wrreg .write1 8 8).seq = .recv
      ∧ (encode (running .recv .wrreg .write1 8 8).devaddr v5Record (.rspX 1 6 2 0 [])).isSome = true := by decide

theorem witness_StepRunsTheNextInstruction :
    State.port { State.reset with port := [.instr .getstatus] } = .instr .getstatus :: []
      ∧ decodeTableWord 40 0x030000001E = some .refresh := by decide +kernel

theorem witness_HostCannotDisturbARunningCommand :
    midCommand.seq ≠ .idle ∧ Instr.isResponse (.setDevaddr 7) = false ∧ Instr.isRead (.setDevaddr 7) = false
      ∧ Instr.isResponse .getstatus = false := by decide

theorem witness_OnlySetDevaddrChangesTheAddress :
    ∃ t, step { State.reset with port := [.instr (.setDevaddr 7)] } = .next t ∧ t.devaddr = 7 := ⟨_, rfl, rfl⟩

theorem witness_OnlyASuccessfulRefreshChangesTheCache :
    ∃ t, step { running .deliver .refresh .read 8 65 with rxbuf := Memory.writeAll [] 0 p1Answer } = .next t
      ∧ t.cacheValid = true := ⟨_, rfl, rfl⟩

theorem witness_NoCommandWritesAnOperandRegister :
    (∃ t, step { State.reset with port := [.issue .refresh] } = .next t)
      ∧ (∃ t, step { midCommand with port := [.tick] } = .next t) ∧ (∃ t, step midCommand = .next t)
      ∧ midCommand.port = [] := ⟨⟨_, rfl⟩, ⟨_, rfl⟩, ⟨_, rfl⟩, rfl⟩

theorem witness_EveryStepKeepsTheInvariant : midCommand.Inv ∧ ∃ t, step midCommand = .next t :=
  ⟨midCommand_inv, _, rfl⟩

theorem witness_ResetLeavesTheSpecifiedValues : State.reset.seq = .idle ∧ State.reset.port = [] := by decide

theorem witness_ResetEventReinitialisesTheBlock :
    State.port { midCommand with port := [.reset] } = .reset :: [] := by decide

end Sys2Proof.Tests
end

/-!
The invariant of the machine (10_state.md): what each of its four parts needs, each phase of the sequencer, each effect of
an instruction, and the step.
-/

namespace Sys2Proof.Machine

/-! ### The running command and the gates it has passed -/

/-- All that the legality of a transaction and its frame depend on is the same. -/
def SameCommand (s t : State) : Prop :=
  SameOperands s t ∧ t.data = s.data ∧ t.pr = s.pr ∧ t.epoch = s.epoch ∧ t.devaddr = s.devaddr
    ∧ t.link.present = s.link.present ∧ t.cur = s.cur ∧ t.txbuf = s.txbuf

theorem SameCommand.request {s t : State} (h : SameCommand s t) : t.request t.cur.op = s.request s.cur.op := by
  obtain ⟨hx, hd, hp, he, -, -, hc, -⟩ := h
  rw [hc]
  exact request_congr hx hd hp he _

theorem SameCommand.txFrame {s t : State} (h : SameCommand s t) : t.txFrame = s.txFrame := by
  obtain ⟨-, -, -, he, -, -, hc, htx⟩ := h
  rw [State.txFrame, State.txFrame, hc]
  exact State.bytesAt_congr .txbuf htx he _ _

theorem rxFrame_congr {s t : State} (hm : t.rxbuf = s.rxbuf) (he : t.epoch = s.epoch) (hc : t.cur = s.cur) :
    t.rxFrame = s.rxFrame := by
  rw [State.rxFrame, State.rxFrame, hc]
  exact State.bytesAt_congr .rxbuf hm he _ _

/-- A frame stored in TXBUF with its length in CUR is the frame SEND hands over (42_transaction.md R99, R102). -/
theorem txFrame_of_stored {s t : State} {f : List Byte} (hm : t.txbuf = s.txbuf.writeAll 0 f) (he : t.epoch = s.epoch)
    (hn : t.cur.txLen.val = f.length) : t.txFrame = f := by
  rw [State.txFrame, hn, State.bytesAt_congr (s := s.store .txbuf 0 f) .txbuf hm (he.trans (by simp)),
    State.bytesAt_store_all]

/-- The gates up to BUILD have passed: the part of `State.ContextOk` that holds from TIMEOUT to DELIVER. -/
def State.FrameReady (s : State) : Prop :=
  s.link.present = true ∧ ∃ r, s.request s.cur.op = some r ∧ s.cur.kind = r.kind
    ∧ r.frame s.devaddr = some s.txFrame ∧ s.cur.rxLen.val = r.responseLen

theorem State.ContextOk.frameReady {s : State} (h : s.ContextOk) (hs : s.seq.afterBuild = true) : s.FrameReady := by
  obtain ⟨hgates, -, -⟩ := h
  obtain ⟨hpresent, r, hr, hkind, hbuilt⟩ := hgates (Bool.and_eq_true_iff.1 hs).1
  exact ⟨hpresent, r, hr, hkind, hbuilt hs⟩

theorem State.FrameReady.contextOk {s : State} (h : s.FrameReady)
    (hexc : s.seq = .crc ∨ s.seq = .deliver → (s.byteAt .rxbuf 1).getLsbD 7 = false)
    (hcrc : s.seq = .deliver → crcMatches s.rxFrame = true) : s.ContextOk := by
  obtain ⟨hpresent, r, hr, hkind, hbuilt⟩ := h
  exact ⟨fun _ => ⟨hpresent, r, hr, hkind, fun _ => hbuilt⟩, hexc, hcrc⟩

theorem State.FrameReady.congr {s t : State} (h : s.FrameReady) (hc : SameCommand s t) : t.FrameReady := by
  have hreq := hc.request
  have htx := hc.txFrame
  obtain ⟨hpresent, r, hr, hkind, hframe, hlen⟩ := h
  obtain ⟨-, -, -, -, hdev, hlink, hcur, -⟩ := hc
  exact ⟨hlink.trans hpresent, r, hreq.trans hr, by rw [hcur, hkind], by rw [hdev, htx, hframe], by rw [hcur, hlen]⟩

/-- Every transaction expects at least the seven bytes of a one-register read (42_transaction.md R101). -/
theorem State.FrameReady.seven_le_rxLen {s : State} (h : s.FrameReady) : 7 ≤ s.cur.rxLen.val := by
  obtain ⟨-, r, hr, -, hframe, hlen⟩ := h
  exact hlen ▸ (frame_length_le hr hframe).2.1

/-- The context depends on SEQ, the running command and RXBUF alone. -/
theorem State.ContextOk.congr {s t : State} (h : s.ContextOk) (hc : SameCommand s t) (hseq : t.seq = s.seq)
    (hrx : t.rxbuf = s.rxbuf) : t.ContextOk := by
  have hreq := hc.request
  have htx := hc.txFrame
  obtain ⟨-, -, -, he, hdev, hlink, hcur, -⟩ := hc
  have hbyte : t.byteAt .rxbuf 1 = s.byteAt .rxbuf 1 := State.byteAt_congr .rxbuf 1 hrx he
  rw [State.ContextOk, hreq, htx, hbyte, rxFrame_congr hrx he hcur, hseq, hcur, hdev, hlink]
  exact h

theorem contextOk_of_idle {s : State} (h : s.seq = .idle) : s.ContextOk := by
  simp [State.ContextOk, h, Phase.afterCheck]

theorem contextOk_of_check {s : State} (h : s.seq = .check) : s.ContextOk := by
  simp [State.ContextOk, h, Phase.afterCheck]

/-! ### The status registers -/

theorem Phase.ne_idle_of_afterBuild {p : Phase} (h : p.afterBuild = true) : p ≠ .idle := by
  rintro rfl
  exact absurd h (by decide)

/-- While a command runs the status registers hold what acceptance put there (42_transaction.md R96). -/
theorem State.StatusOk.running {s : State} (h : s.StatusOk) (hs : s.seq ≠ .idle) :
    s.err = .ok ∧ s.excCode = 0 ∧ s.resultLen = 0 := by
  obtain ⟨hrun, hexc, -⟩ := h
  obtain ⟨herr, hlen⟩ := hrun hs
  exact ⟨herr, hexc (by rw [herr]; decide), hlen⟩

theorem statusOk_of_accepted {s : State} (herr : s.err = .ok) (hexc : s.excCode = 0) (hlen : s.resultLen = 0) :
    s.StatusOk :=
  ⟨fun _ => ⟨herr, hlen⟩, fun _ => hexc, fun _ => hlen⟩

/-- A failure leaves EXC_CODE 0 unless it is a device exception (60_exceptions.md R152). -/
theorem statusOk_raise {s : State} (hexc : s.excCode = 0) (hlen : s.resultLen = 0) (e : Failure) :
    (s.raise e).StatusOk := by
  refine ⟨fun h => absurd rfl h, fun h => ?_, fun _ => hlen⟩
  cases e with
  | deviceException code => exact absurd rfl h
  | _ => exact hexc

/-! ### The cache and the other memories -/

theorem publish_memoriesWf {s : State} (h : s.MemoriesWf) : s.publish.MemoriesWf := by
  obtain ⟨hdata, htx, hrx, hcache⟩ := h
  refine ⟨by rwa [State.publish_data], by rwa [State.publish_txbuf], by rwa [State.publish_rxbuf], ?_⟩
  by_cases hop : s.cur.op = .refresh
  · rw [publish_refresh hop, State.store_cache_cache]
    exact Memory.wf_writeAll _ hcache (by simp)
  · rwa [(publish_cache hop).1]

theorem publish_cacheOk {s : State} (h : s.CacheOk) : s.publish.CacheOk := by
  by_cases hop : s.cur.op = .refresh
  · rw [publish_refresh hop]
    refine ⟨fun hv => absurd hv (by simp), fun _ a ha => ?_⟩
    rw [State.store_cache_cache, Memory.read?_writeAll, if_pos (by simpa using ha)]
    simpa using ha
  · obtain ⟨hcache, hvalid⟩ := publish_cache hop
    rwa [State.CacheOk, hcache, hvalid]

/-- What RECV puts into RXBUF stays inside it (00_scope.md R6). -/
theorem afterRead_rxbuf_wf {s : State} (h : Memory.wf (Config.spaceSize .rxbuf) s.rxbuf) (bs : List Byte) :
    Memory.wf (Config.spaceSize .rxbuf) (s.afterRead bs).rxbuf := by
  have hlen := s.link.received_length_le s.cur.rxLen.val bs
  have hmax := s.cur.rxLen.isLt
  refine Memory.wf_writeAll _ h ?_
  show 0 + _ ≤ 65
  omega

/-! ### The ways a state that has the invariant goes on -/

theorem inv_of_idle {s : State} (hs : s.seq = .idle) (hmem : s.MemoriesWf) (hstatus : s.StatusOk) (hcache : s.CacheOk) :
    s.Inv :=
  ⟨hmem, hstatus, hcache, contextOk_of_idle hs⟩

theorem State.Inv.rxbuf_wf {s : State} (h : s.Inv) : Memory.wf (Config.spaceSize .rxbuf) s.rxbuf := by
  obtain ⟨⟨-, -, hrx, -⟩, -⟩ := h
  exact hrx

theorem State.Inv.contextOk {s : State} (h : s.Inv) : s.ContextOk := by
  obtain ⟨-, -, -, hctx⟩ := h
  exact hctx

/-- The transport's bytes, the delays, the turns and the reply are not the invariant's business. -/
theorem State.Inv.outside {s t : State} (h : s.Inv)
    (ht : t = { s with
      link := t.link, tReadMs := t.tReadMs, tWriteMs := t.tWriteMs, tSettleMs := t.tSettleMs, port := t.port
      reply := t.reply })
    (hl : t.link.present = s.link.present) : t.Inv := by
  obtain ⟨hmem, hstatus, hcache, hctx⟩ := h
  rw [ht]
  exact ⟨hmem, hstatus, hcache, hctx.congr (by simp [SameCommand, SameOperands, hl]) rfl rfl⟩

theorem State.Inv.answer {s : State} (h : s.Inv) (r : Reply) : (s.answer r).Inv := h.outside rfl rfl

/-- A gate fails (60_exceptions.md R152). -/
theorem State.Inv.raise {s t : State} (h : s.Inv) (hs : s.seq ≠ .idle) (e : Failure)
    (ht : t = State.raise { s with cur := t.cur, link := t.link, rxbuf := t.rxbuf } e)
    (hm : Memory.wf (Config.spaceSize .rxbuf) t.rxbuf) : t.Inv := by
  obtain ⟨⟨hdata, htx, -, hcache⟩, hstatus, hvalid, -⟩ := h
  obtain ⟨-, hexc, hlen⟩ := hstatus.running hs
  rw [ht]
  exact inv_of_idle rfl ⟨hdata, htx, hm, hcache⟩ (statusOk_raise hexc hlen e) hvalid

/-- A gate after BUILD passes: only the transport, RXBUF and SEQ move. -/
theorem State.Inv.advance {s t : State} (h : s.Inv) (hs : s.seq.afterBuild = true)
    (ht : t = { s with link := t.link, rxbuf := t.rxbuf, seq := t.seq }) (hl : t.link.present = s.link.present)
    (hm : Memory.wf (Config.spaceSize .rxbuf) t.rxbuf)
    (hexc : t.seq = .crc ∨ t.seq = .deliver → (t.byteAt .rxbuf 1).getLsbD 7 = false)
    (hcrc : t.seq = .deliver → crcMatches t.rxFrame = true) : t.Inv := by
  have hready := h.contextOk.frameReady hs
  obtain ⟨⟨hdata, htx, -, hcache⟩, hstatus, hvalid, -⟩ := h
  obtain ⟨herr, hcode, hlen⟩ := hstatus.running (Phase.ne_idle_of_afterBuild hs)
  have hc : SameCommand s t := by rw [ht]; simp [SameCommand, SameOperands, hl]
  have hctx' : t.ContextOk := (hready.congr hc).contextOk hexc hcrc
  rw [ht] at hctx' ⊢
  exact ⟨⟨hdata, htx, hm, hcache⟩, statusOk_of_accepted herr hcode hlen, hvalid, hctx'⟩

/-! ### The phases -/

theorem accept_inv {s : State} (hmem : s.MemoriesWf) (hcache : s.CacheOk) (op : TxOp) : (s.accept op).Inv :=
  ⟨hmem, statusOk_of_accepted rfl rfl rfl, hcache, contextOk_of_check rfl⟩

theorem phaseCheck_inv {s : State} (h : s.Inv) (hs : s.seq = .check) : (phaseCheck s).Inv := by
  have hrun : s.seq ≠ .idle := by simp [hs]
  unfold phaseCheck
  split
  · exact h.raise hrun _ rfl h.rxbuf_wf
  · next r hr =>
    dsimp only
    split
    · next hp =>
      obtain ⟨hmem, hstatus, hcache, -⟩ := h
      obtain ⟨herr, hexc, hlen⟩ := hstatus.running hrun
      refine ⟨hmem, statusOk_of_accepted herr hexc hlen, hcache, fun _ => ⟨hp, r, ?_, rfl, ?_⟩, ?_, ?_⟩
      · exact (request_congr (s := s) (by exact ⟨rfl, rfl, rfl, rfl, rfl⟩) (by rfl) (by rfl) (by rfl) s.cur.op).trans hr
      all_goals simp [Phase.afterBuild]
    · exact h.raise hrun _ rfl h.rxbuf_wf

/-- BUILD of a legal transaction (42_transaction.md R99). -/
theorem phaseBuild_eq {s : State} {r : Request} {f : List Byte} (hr : s.request s.cur.op = some r)
    (hf : r.frame s.devaddr = some f) :
    phaseBuild s = { s.store .txbuf 0 f with
      cur := { s.cur with txLen := Fin.ofNat 38 f.length, rxLen := Fin.ofNat 66 r.responseLen }
      seq := .timeout } := by
  simp only [phaseBuild, hr, hf]

theorem phaseBuild_inv {s : State} (h : s.Inv) (hs : s.seq = .build) : (phaseBuild s).Inv := by
  obtain ⟨⟨hdata, htx, hrx, hcache⟩, hstatus, hvalid, hgates, -, -⟩ := h
  obtain ⟨herr, hexc, hlen⟩ := hstatus.running (by simp [hs])
  obtain ⟨hpresent, r, hr, hkind, -⟩ := hgates (by simp [hs, Phase.afterCheck])
  obtain ⟨f, hf⟩ := Option.isSome_iff_exists.1 (request_frame_isSome hr s.devaddr)
  obtain ⟨hflen, -, hrlen⟩ := frame_length_le hr hf
  rw [phaseBuild_eq hr hf]
  refine ⟨⟨hdata, Memory.wf_writeAll f htx ?_, hrx, hcache⟩, statusOk_of_accepted herr hexc hlen, hvalid,
    State.FrameReady.contextOk ⟨hpresent, r, ?_, hkind, ?_, ?_⟩ (by simp) (by simp)⟩
  · show 0 + f.length ≤ 37
    omega
  · exact (request_congr (s := s) (by exact ⟨rfl, rfl, rfl, rfl, rfl⟩) (by rfl) (by rfl) (by rfl) s.cur.op).trans hr
  · exact hf.trans (congrArg some (Eq.symm
      (txFrame_of_stored (s := s) (by rfl) (by rfl) (by exact Nat.mod_eq_of_lt (by omega)))))
  · exact Nat.mod_eq_of_lt (by omega)

theorem phaseTimeout_inv {s : State} (h : s.Inv) (hs : s.seq = .timeout) : (phaseTimeout s).Inv :=
  h.advance (by rw [hs]; decide) rfl rfl h.rxbuf_wf (by simp [phaseTimeout]) (by simp [phaseTimeout])

theorem phaseSend_inv {s : State} (h : s.Inv) (hs : s.seq = .send) : (phaseSend s).Inv := by
  by_cases hn : s.link.nextCount = s.cur.txLen.val
  · rw [phaseSend_full hn]
    exact h.advance (by rw [hs]; decide) rfl rfl h.rxbuf_wf (by simp) (by simp)
  · rw [phaseSend_short hn]
    exact h.raise (by simp [hs]) .transportWriteIncomplete rfl h.rxbuf_wf

theorem phaseSettle_inv {s : State} (h : s.Inv) (hs : s.seq = .settle) : (phaseSettle s).Inv :=
  h.advance (by rw [hs]; decide) rfl rfl h.rxbuf_wf (by simp [phaseSettle]) (by simp [phaseSettle])

theorem recvWith_inv {s : State} (h : s.Inv) (hs : s.seq = .recv) (bs : List Byte) : (recvWith bs s).Inv := by
  have hrx := afterRead_rxbuf_wf h.rxbuf_wf bs
  by_cases hn : (s.link.received s.cur.rxLen.val bs).length < s.cur.rxLen.val
  · rw [recvWith_short hn]
    exact h.raise (by simp [hs]) .transportReadIncomplete rfl hrx
  · rw [recvWith_full hn]
    exact h.advance (by rw [hs]; decide) rfl rfl hrx (by simp) (by simp)

theorem phaseRecv_inv {s : State} (h : s.Inv) (hs : s.seq = .recv) : (phaseRecv s).Inv :=
  recvWith_inv (s := { s with link := s.link.passArrivals }) (h.outside rfl rfl) hs _

theorem phaseExc_inv {s : State} (h : s.Inv) (hs : s.seq = .exc) : (phaseExc s).Inv := by
  cases hb : (s.byteAt .rxbuf 1).getLsbD 7 with
  | true =>
    rw [phaseExc_set hb]
    exact h.raise (by simp [hs]) _ rfl h.rxbuf_wf
  | false =>
    rw [phaseExc_clear hb]
    exact h.advance (by rw [hs]; decide) rfl rfl h.rxbuf_wf (fun _ => hb) (by simp)

theorem bytesAt_take (s : State) (sp : Space) (a : Nat) {k n : Nat} (h : k ≤ n) :
    (s.bytesAt sp a n).take k = s.bytesAt sp a k := by
  apply List.ext_getElem?
  intro i
  simp only [List.getElem?_take, State.bytesAt_getElem?]
  split
  · rw [if_pos (by omega)]
  · rfl

/-- Phase CRC makes the check of step 6 on the bytes RECV stored (40_checksum.md R83, 42_transaction.md R106). -/
theorem crcMatches_rxFrame_iff {s : State} (h : 2 ≤ s.cur.rxLen.val) :
    crcMatches s.rxFrame = true ↔
      crc16 (s.bytesAt .rxbuf 0 (s.cur.rxLen.val - 2))
        = be16 (s.byteAt .rxbuf (s.cur.rxLen.val - 1)) (s.byteAt .rxbuf (s.cur.rxLen.val - 2)) := by
  have hlen : s.rxFrame.length = s.cur.rxLen.val := s.bytesAt_length _ _ _
  rw [crcMatches_iff _ (by omega), hlen, State.rxFrame, bytesAt_take _ _ _ (by omega),
    State.bytesAt_getD _ _ _ (by omega), State.bytesAt_getD _ _ _ (by omega), Nat.zero_add, Nat.zero_add]

theorem phaseCrc_inv {s : State} (h : s.Inv) (hs : s.seq = .crc) : (phaseCrc s).Inv := by
  have hafter : s.seq.afterBuild = true := by rw [hs]; decide
  have hseven := (h.contextOk.frameReady hafter).seven_le_rxLen
  have hmatch := crcMatches_rxFrame_iff (s := s) (by omega)
  by_cases hc : crcMatches s.rxFrame = true
  · rw [phaseCrc_right (hmatch.1 hc)]
    obtain ⟨-, hexc, -⟩ := h.contextOk
    refine h.advance hafter rfl rfl h.rxbuf_wf (fun _ => hexc (.inl hs)) (fun _ => ?_)
    exact (congrArg crcMatches (rxFrame_congr (s := s) (by rfl) (by rfl) (by rfl))).trans hc
  · rw [phaseCrc_wrong (fun e => hc (hmatch.2 e))]
    exact h.raise (by simp [hs]) _ rfl h.rxbuf_wf

theorem phaseDeliver_inv {s : State} (h : s.Inv) (hs : s.seq = .deliver) : (phaseDeliver s).Inv := by
  obtain ⟨hmem, hstatus, hcache, -⟩ := h
  obtain ⟨-, hexc, -⟩ := hstatus.running (by simp [hs])
  refine inv_of_idle rfl (publish_memoriesWf hmem) ⟨fun hi => absurd rfl hi, fun _ => ?_, fun he => absurd rfl he⟩
    (publish_cacheOk hcache)
  exact s.publish_excCode.trans hexc

theorem seqStep_inv {s : State} (h : s.Inv) : (seqStep s).Inv := by
  cases hs : s.seq with
  | idle => rwa [seqStep_idle hs]
  | check => rw [seqStep_check hs]; exact phaseCheck_inv h hs
  | build => rw [seqStep_build hs]; exact phaseBuild_inv h hs
  | timeout => rw [seqStep_timeout hs]; exact phaseTimeout_inv h hs
  | send => rw [seqStep_send hs]; exact phaseSend_inv h hs
  | settle => rw [seqStep_settle hs]; exact phaseSettle_inv h hs
  | recv => rw [seqStep_recv hs]; exact phaseRecv_inv h hs
  | exc => rw [seqStep_exc hs]; exact phaseExc_inv h hs
  | crc => rw [seqStep_crc hs]; exact phaseCrc_inv h hs
  | deliver => rw [seqStep_deliver hs]; exact phaseDeliver_inv h hs

theorem runPhases_inv : ∀ (n : Nat) {s : State}, s.Inv → (runPhases n s).Inv
  | 0, _, h => h
  | n + 1, s, h => by
    rw [runPhases]
    split
    · exact h
    · exact runPhases_inv n (seqStep_inv h)

/-! ### Reset, responses, instructions -/

theorem reset_inv : State.reset.Inv :=
  inv_of_idle rfl ⟨Memory.wf_nil _, Memory.wf_nil _, Memory.wf_nil _, Memory.wf_nil _⟩
    (statusOk_of_accepted rfl rfl rfl) ⟨fun _ => rfl, fun h => absurd h Bool.false_ne_true⟩

theorem resetEvent_inv (s : State) : s.resetEvent.Inv := by
  obtain ⟨hmem, hstatus, hcache, -⟩ := reset_inv
  exact inv_of_idle rfl hmem hstatus hcache

theorem respond_inv {s : State} (h : s.Inv) (f : List Byte) : (s.respond f).Inv := by
  unfold State.respond
  split
  · exact runPhases_inv 3 (recvWith_inv h ‹_› f)
  · exact h.outside rfl rfl

/-- The host loads operands only while idle, where no latched context binds them. -/
theorem Loads.inv {s t : State} (h : Loads s t) (hs : s.seq = .idle) (hi : s.Inv) : t.Inv := by
  obtain ⟨_, _, _, _, _, _, _, rfl, hm⟩ := h
  obtain ⟨⟨hdata, htx, hrx, hcache⟩, hstatus, hvalid, -⟩ := hi
  exact inv_of_idle hs ⟨hm hdata, htx, hrx, hcache⟩ hstatus hvalid

theorem transact_inv {s : State} (h : s.Inv) (op : TxOp) : (s.transact op).Inv := by
  obtain ⟨hmem, -, hcache, -⟩ := h
  exact runPhases_inv 9 ((accept_inv hmem hcache op).answer _)

theorem Effect.inv {i : Instr} {s t : State} (e : Effect i s t) (h : s.Inv) : t.Inv := by
  cases e with
  | answered r => exact h.answer r
  | address a _ hs =>
    obtain ⟨hmem, hstatus, hcache, -⟩ := h
    exact inv_of_idle hs hmem hstatus hcache
  | delays r w q => exact h.outside rfl rfl
  | loaded t hs hl => exact (hl.inv hs h).answer _
  | transacted t op hs hl _ => exact transact_inv (hl.inv hs h) op
  | responded f => exact respond_inv h f

/-- Settles O57: a step is one phase, an acceptance, a turned-away command, a reset or an instruction's effect, and each
keeps the invariant. -/
theorem everyStepKeepsTheInvariant : Obligations.EveryStepKeepsTheInvariant := by
  intro s t h hstep
  obtain ⟨u, hu, hcases⟩ := step_cases hstep
  have hinv : u.Inv := by rw [hu]; exact h.outside rfl rfl
  rcases hcases with ⟨-, rfl⟩ | ⟨op, -, -, -, rfl⟩ | ⟨-, -, -, rfl⟩ | ⟨-, -, rfl⟩ | ⟨i, -, -, he⟩
  · exact seqStep_inv hinv
  · obtain ⟨hmem, -, hcache, -⟩ := hinv
    exact (accept_inv hmem hcache op).answer _
  · exact hinv.answer _
  · exact resetEvent_inv u
  · exact he.inv hinv

/-- Settles O58: reset is idle, with empty memories and nothing cached. -/
theorem invariantHoldsAtReset : Obligations.InvariantHoldsAtReset := reset_inv

end Sys2Proof.Machine

/-!
The sequencer only moves forward (10_state.md R15), and what a step leaves of DEVADDR, the operand registers and
TRANSPORT_PRESENT (R10, R20, R26).
-/

namespace Sys2Proof.Machine

/-! ### Forward only -/

theorem phaseCheck_seq (s : State) : (phaseCheck s).seq = .build ∨ (phaseCheck s).seq = .idle := by
  unfold phaseCheck
  split
  · exact .inr rfl
  · dsimp only
    split
    · exact .inl rfl
    · exact .inr rfl

theorem phaseBuild_seq (s : State) : (phaseBuild s).seq = .timeout ∨ (phaseBuild s).seq = .idle := by
  unfold phaseBuild
  split
  · exact .inr rfl
  · split
    · exact .inr rfl
    · exact .inl rfl

theorem phaseSend_seq (s : State) : (phaseSend s).seq = .settle ∨ (phaseSend s).seq = .idle := by
  by_cases h : s.link.nextCount = s.cur.txLen.val
  · rw [phaseSend_full h]; exact .inl rfl
  · rw [phaseSend_short h]; exact .inr rfl

theorem recvWith_seq (bs : List Byte) (s : State) : (recvWith bs s).seq = .exc ∨ (recvWith bs s).seq = .idle := by
  by_cases h : (s.link.received s.cur.rxLen.val bs).length < s.cur.rxLen.val
  · rw [recvWith_short h]; exact .inr rfl
  · rw [recvWith_full h]; exact .inl rfl

theorem phaseExc_seq (s : State) : (phaseExc s).seq = .crc ∨ (phaseExc s).seq = .idle := by
  cases h : (s.byteAt .rxbuf 1).getLsbD 7 with
  | true => rw [phaseExc_set h]; exact .inr rfl
  | false => rw [phaseExc_clear h]; exact .inl rfl

theorem phaseCrc_seq (s : State) : (phaseCrc s).seq = .deliver ∨ (phaseCrc s).seq = .idle := by
  by_cases h : crc16 (s.bytesAt .rxbuf 0 (s.cur.rxLen.val - 2))
      = be16 (s.byteAt .rxbuf (s.cur.rxLen.val - 1)) (s.byteAt .rxbuf (s.cur.rxLen.val - 2))
  · rw [phaseCrc_right h]; exact .inl rfl
  · rw [phaseCrc_wrong h]; exact .inr rfl

/-- The phases with one way out. -/
theorem seqStep_seq_succ {s : State} (h : s.seq = .timeout ∨ s.seq = .settle ∨ s.seq = .deliver) :
    (seqStep s).seq = s.seq.succ := by
  rcases h with hs | hs | hs
  · rw [seqStep_timeout hs, hs]; rfl
  · rw [seqStep_settle hs, hs]; rfl
  · rw [seqStep_deliver hs, hs]; rfl

theorem seqStep_seq (s : State) : (seqStep s).seq = s.seq.succ ∨ (seqStep s).seq = .idle := by
  cases hs : s.seq with
  | idle => rw [seqStep_idle hs]; exact .inr hs
  | check => rw [seqStep_check hs]; exact phaseCheck_seq s
  | build => rw [seqStep_build hs]; exact phaseBuild_seq s
  | timeout => rw [seqStep_timeout hs]; exact .inl rfl
  | send => rw [seqStep_send hs]; exact phaseSend_seq s
  | settle => rw [seqStep_settle hs]; exact .inl rfl
  | recv => rw [seqStep_recv hs]; exact recvWith_seq _ _
  | exc => rw [seqStep_exc hs]; exact phaseExc_seq s
  | crc => rw [seqStep_crc hs]; exact phaseCrc_seq s
  | deliver => rw [seqStep_deliver hs]; exact .inl rfl

/-- How many steps of the sequencer there are at most until it is idle. -/
def Phase.stepsLeft : Phase → Nat
  | .idle => 0
  | .check => 9
  | .build => 8
  | .timeout => 7
  | .send => 6
  | .settle => 5
  | .recv => 4
  | .exc => 3
  | .crc => 2
  | .deliver => 1

theorem Phase.stepsLeft_le (p : Phase) : p.stepsLeft ≤ 9 := by cases p <;> decide

theorem Phase.stepsLeft_eq_zero {p : Phase} (h : p.stepsLeft = 0) : p = .idle := by
  cases p with
  | idle => rfl
  | _ => exact absurd h (by decide)

theorem Phase.stepsLeft_succ {p : Phase} (h : p ≠ .idle) : p.succ.stepsLeft = p.stepsLeft - 1 := by
  cases p with
  | idle => exact absurd rfl h
  | _ => rfl

/-- Every step brings the sequencer nearer to IDLE. -/
theorem seqStep_stepsLeft (s : State) : (seqStep s).seq.stepsLeft ≤ s.seq.stepsLeft - 1 := by
  by_cases hs : s.seq = .idle
  · rw [seqStep_idle hs, hs]; exact Nat.le_refl 0
  · rcases seqStep_seq s with h | h
    · rw [h, Phase.stepsLeft_succ hs]
    · rw [h]; exact Nat.zero_le _

theorem iterate_seqStep_stepsLeft (n : Nat) : ∀ s : State, (seqStep^[n] s).seq.stepsLeft ≤ s.seq.stepsLeft - n := by
  induction n with
  | zero => exact fun s => Nat.le_refl _
  | succ n ih =>
    intro s
    have hrest := ih (seqStep s)
    have hstep := seqStep_stepsLeft s
    rw [Function.iterate_succ_apply]
    omega

/-- Settles O34: nine is the number of steps left at CHECK, and each step uses up one at least. -/
theorem sequencerOnlyMovesForward : Obligations.SequencerOnlyMovesForward := by
  intro s
  refine ⟨fun _ => seqStep_seq s, seqStep_idle, seqStep_seq_succ, ?_⟩
  have hnine := iterate_seqStep_stepsLeft 9 s
  have hmax := s.seq.stepsLeft_le
  exact Phase.stepsLeft_eq_zero (p := (seqStep^[9] s).seq) (by omega)

/-! ### DEVADDR and TRANSPORT_PRESENT -/

theorem SameAroundTransaction.devaddr {s t : State} (h : SameAroundTransaction s t) : t.devaddr = s.devaddr := by
  obtain ⟨⟨hdev, -⟩, -⟩ := h
  exact hdev

theorem SameAroundTransaction.present {s t : State} (h : SameAroundTransaction s t) :
    t.link.present = s.link.present := by
  obtain ⟨-, hpresent, -⟩ := h
  exact hpresent

theorem Loads.around {s t : State} (h : Loads s t) : SameAroundTransaction s t := by
  obtain ⟨_, _, _, _, _, _, _, rfl, -⟩ := h
  simp [SameAroundTransaction, SameControl]

theorem transact_around (s : State) (op : TxOp) : SameAroundTransaction s (s.transact op) := by
  obtain ⟨-, -, h, -⟩ := transact_keeps s op
  exact h

theorem Effect.devaddr {i : Instr} {s t : State} (e : Effect i s t) :
    t.devaddr = s.devaddr ∨ ∃ a, i = .setDevaddr a ∧ s.seq = .idle ∧ t.devaddr = a := by
  cases e with
  | answered r => exact .inl rfl
  | address a hi hs => exact .inr ⟨a, hi, hs, rfl⟩
  | delays r w q => exact .inl rfl
  | loaded t _ hl => exact .inl hl.around.devaddr
  | transacted t op _ hl => exact .inl ((transact_around t op).devaddr.trans hl.around.devaddr)
  | responded f => exact .inl (respond_keeps s f).around.devaddr

theorem Effect.present {i : Instr} {s t : State} (e : Effect i s t) : t.link.present = s.link.present := by
  cases e with
  | answered r => rfl
  | address a => rfl
  | delays r w q => rfl
  | loaded t _ hl => exact hl.around.present
  | transacted t op _ hl => exact (transact_around t op).present.trans hl.around.present
  | responded f => exact (respond_keeps s f).around.present

/-- Settles O54: of the turns only SET_DEVADDR in an idle block and the reset event write DEVADDR. -/
theorem onlySetDevaddrChangesTheAddress : Obligations.OnlySetDevaddrChangesTheAddress := by
  intro s t hstep
  obtain ⟨u, hu, hcases⟩ := step_cases hstep
  have hdev : u.devaddr = s.devaddr := by rw [hu]
  have hseq : u.seq = s.seq := by rw [hu]
  rcases hcases with ⟨-, rfl⟩ | ⟨op, -, -, -, rfl⟩ | ⟨-, -, -, rfl⟩ | ⟨rest, hport, rfl⟩ | ⟨i, rest, hport, he⟩
  · exact .inl ((seqStep_keeps u).around.devaddr.trans hdev)
  · exact .inl hdev
  · exact .inl hdev
  · exact .inr (.inr ⟨rest, hport, rfl⟩)
  · rcases he.devaddr with h | ⟨a, rfl, hs, h⟩
    · exact .inl (h.trans hdev)
    · exact .inr (.inl ⟨a, rest, hport, hseq ▸ hs, h⟩)

theorem step_present {s t : State} (hstep : step s = .next t) : t.link.present = s.link.present := by
  obtain ⟨u, hu, hcases⟩ := step_cases hstep
  have hpresent : u.link.present = s.link.present := by rw [hu]
  rcases hcases with ⟨-, rfl⟩ | ⟨op, -, -, -, rfl⟩ | ⟨-, -, -, rfl⟩ | ⟨-, -, rfl⟩ | ⟨i, -, -, he⟩
  · exact (seqStep_keeps u).around.present.trans hpresent
  · exact hpresent
  · exact hpresent
  · exact hpresent
  · exact he.present.trans hpresent

/-- A turn that is neither an instruction nor the reset event leaves the operands alone. -/
theorem step_operands {s t : State} (hstep : step s = .next t)
    (hport : s.port = [] ∨ (∃ rest, s.port = .tick :: rest) ∨ (∃ op rest, s.port = .issue op :: rest)) :
    SameOperands s t ∧ t.data = s.data := by
  obtain ⟨u, hu, hcases⟩ := step_cases hstep
  have hsame : SameOperands s u ∧ u.data = s.data := by rw [hu]; exact ⟨⟨rfl, rfl, rfl, rfl, rfl⟩, rfl⟩
  rcases hcases with ⟨-, rfl⟩ | ⟨op, -, -, -, rfl⟩ | ⟨-, -, -, rfl⟩ | ⟨rest, hr, -⟩ | ⟨i, rest, hi, -⟩
  · have hk := seqStep_keeps u
    obtain ⟨⟨h0, h1, h2, h3, h4⟩, hd⟩ := hsame
    obtain ⟨k0, k1, k2, k3, k4⟩ := hk.operands
    exact ⟨⟨k0.trans h0, k1.trans h1, k2.trans h2, k3.trans h3, k4.trans h4⟩, hk.data.trans hd⟩
  · exact hsame
  · exact hsame
  · simp [hr] at hport
  · simp [hi] at hport

/-- Settles O56: acceptance and the phases keep what no phase touches, and no effect moves the transport's presence. -/
theorem noCommandWritesAnOperandRegister : Obligations.NoCommandWritesAnOperandRegister :=
  ⟨fun _ _ => step_present, fun _ _ => step_operands⟩

/-! ### Responses nobody waits for -/

/-- A response row means that its frame comes from the device. -/
theorem exec_response {i : Instr} (hi : i.isResponse = true) {addr : Byte} {pr : PresetRecord} {frame : List Byte}
    (hf : encode addr pr i = some frame) (s : State) : exec i s = .next (s.respond frame) := by
  cases i with
  | rspR | rspW1 | rspWn | rspX => cases hf; rfl
  | _ => exact absurd hi Bool.false_ne_true

theorem respond_of_not_recv {s : State} (h : s.seq ≠ .recv) (frame : List Byte) :
    s.respond frame = { s with link := s.link.hold frame } := by
  rw [State.respond, if_neg h]

/-- Settles O50: outside RECV a response is held. -/
theorem earlyOrLateResponsesAreHeld : Obligations.EarlyOrLateResponsesAreHeld := by
  intro s i pr frame hi hs hf
  rw [exec_response hi hf, respond_of_not_recv hs]
  rfl

/-! ### After reset -/

theorem step_of_no_turn {s : State} (h : s.port = []) : step s = .next (seqStep s) := by
  unfold step
  split
  · rfl
  all_goals exact absurd (h.symm.trans ‹_›) (by simp)

/-- Settles O59: reset's values as defined, and an idle block with no turn takes a step of the idle sequencer. -/
theorem resetLeavesTheSpecifiedValues : Obligations.ResetLeavesTheSpecifiedValues := by
  refine ⟨rfl, rfl, rfl, rfl, rfl, rfl, rfl, rfl, rfl, rfl, fun s hidle hport => ?_⟩
  rw [step_of_no_turn hport, seqStep_idle hidle]

end Sys2Proof.Machine

/-!
The register cache: only the DELIVER of a REFRESH writes it, bytes 0 to 59 together (20_memory.md R55, 43_cache_codec.md
R121).
-/

namespace Sys2Proof.Machine

/-! ### Two ways a step treats the cache -/

/-- The cache, its valid bit and what its unwritten bytes read as are the same. -/
def CacheKept (s t : State) : Prop := t.cache = s.cache ∧ t.cacheValid = s.cacheValid ∧ t.epoch = s.epoch

/-- `t` is the end of a REFRESH that succeeded: bytes 0 to 59 of the cache are the response's, the others as in `s`. -/
def Refreshed (s t : State) : Prop :=
  t.cur.op = .refresh ∧ t.seq = .idle ∧ t.err = .ok ∧ t.cacheValid = true
    ∧ (∀ a < 60, t.byteAt .cache a = t.byteAt .rxbuf (3 + a)) ∧ ∀ a, 60 ≤ a → t.byteAt .cache a = s.byteAt .cache a

/-- All the block can do to the cache short of a reset event. -/
def KeptOrRefreshed (s t : State) : Prop := CacheKept s t ∨ Refreshed s t

theorem CacheKept.rfl {s : State} : CacheKept s s := ⟨Eq.refl _, Eq.refl _, Eq.refl _⟩

theorem CacheKept.trans {s t u : State} (h : CacheKept s t) (k : CacheKept t u) : CacheKept s u := by
  obtain ⟨hc, hv, he⟩ := h
  obtain ⟨kc, kv, ke⟩ := k
  exact ⟨kc.trans hc, kv.trans hv, ke.trans he⟩

theorem CacheKept.byteAt {s t : State} (h : CacheKept s t) (a : Nat) : t.byteAt .cache a = s.byteAt .cache a := by
  obtain ⟨hc, -, he⟩ := h
  exact State.byteAt_congr .cache a hc he

theorem CacheKept.refreshed {s t u : State} (h : CacheKept s t) (k : Refreshed t u) : Refreshed s u := by
  obtain ⟨hop, hseq, herr, hvalid, hlow, hhigh⟩ := k
  exact ⟨hop, hseq, herr, hvalid, hlow, fun a ha => (hhigh a ha).trans (h.byteAt a)⟩

theorem CacheKept.followedBy {s t u : State} (h : CacheKept s t) (k : KeptOrRefreshed t u) : KeptOrRefreshed s u :=
  k.imp h.trans h.refreshed

theorem Refreshed.idle {s t : State} (h : Refreshed s t) : t.seq = .idle := by
  obtain ⟨-, hseq, -⟩ := h
  exact hseq

/-! ### The phases -/

theorem phaseCheck_cacheKept (s : State) : CacheKept s (phaseCheck s) := by
  unfold phaseCheck
  split
  · exact .rfl
  · dsimp only
    split <;> exact .rfl

theorem phaseBuild_cacheKept (s : State) : CacheKept s (phaseBuild s) := by
  unfold phaseBuild
  split
  · exact .rfl
  · split <;> exact .rfl

theorem phaseSend_cacheKept (s : State) : CacheKept s (phaseSend s) := by
  by_cases h : s.link.nextCount = s.cur.txLen.val
  · rw [phaseSend_full h]; exact .rfl
  · rw [phaseSend_short h]; exact .rfl

theorem recvWith_cacheKept (bs : List Byte) (s : State) : CacheKept s (recvWith bs s) := by
  rw [recvWith_eq]; exact .rfl

theorem phaseExc_cacheKept (s : State) : CacheKept s (phaseExc s) := by
  unfold phaseExc
  split <;> exact .rfl

theorem phaseCrc_cacheKept (s : State) : CacheKept s (phaseCrc s) := by
  unfold phaseCrc
  dsimp only
  split <;> exact .rfl

/-- DELIVER alone writes the cache, and only for a REFRESH (42_transaction.md R107). -/
theorem phaseDeliver_keptOrRefreshed (s : State) : KeptOrRefreshed s (phaseDeliver s) := by
  by_cases hop : s.cur.op = .refresh
  · have hcache (a : Nat) : (phaseDeliver s).byteAt .cache a = s.publish.byteAt .cache a :=
      State.byteAt_congr .cache a (by rfl) (by rfl)
    have hrx (a : Nat) : (phaseDeliver s).byteAt .rxbuf a = s.byteAt .rxbuf a :=
      State.byteAt_congr .rxbuf a s.publish_rxbuf s.publish_epoch
    refine .inr ⟨(congrArg Context.op s.publish_cur).trans hop, by rfl, by rfl, ?_, fun a ha => ?_, fun a ha => ?_⟩
    · simp only [phaseDeliver, publish_refresh hop]
    · rw [hcache, hrx, publish_refresh_byteAt hop, if_pos ha]
    · rw [hcache, publish_refresh_byteAt hop, if_neg (by omega)]
  · obtain ⟨hcache, hvalid⟩ := publish_cache hop
    exact .inl ⟨hcache, hvalid, s.publish_epoch⟩

theorem seqStep_keptOrRefreshed (s : State) : KeptOrRefreshed s (seqStep s) := by
  cases hs : s.seq with
  | idle => rw [seqStep_idle hs]; exact .inl .rfl
  | check => rw [seqStep_check hs]; exact .inl (phaseCheck_cacheKept s)
  | build => rw [seqStep_build hs]; exact .inl (phaseBuild_cacheKept s)
  | timeout => rw [seqStep_timeout hs]; exact .inl .rfl
  | send => rw [seqStep_send hs]; exact .inl (phaseSend_cacheKept s)
  | settle => rw [seqStep_settle hs]; exact .inl .rfl
  | recv => rw [seqStep_recv hs]; exact .inl (recvWith_cacheKept _ { s with link := s.link.passArrivals })
  | exc => rw [seqStep_exc hs]; exact .inl (phaseExc_cacheKept s)
  | crc => rw [seqStep_crc hs]; exact .inl (phaseCrc_cacheKept s)
  | deliver => rw [seqStep_deliver hs]; exact phaseDeliver_keptOrRefreshed s

/-- A REFRESH that ends leaves the sequencer idle, so a run of phases ends there too. -/
theorem runPhases_keptOrRefreshed : ∀ (n : Nat) (s : State), KeptOrRefreshed s (runPhases n s)
  | 0, _ => .inl .rfl
  | n + 1, s => by
    rw [runPhases]
    split
    · exact .inl .rfl
    · rcases seqStep_keptOrRefreshed s with hkept | hdone
      · exact hkept.followedBy (runPhases_keptOrRefreshed n _)
      · rw [runPhases_idle hdone.idle]
        exact .inr hdone

/-! ### Instructions and steps -/

theorem Loads.cacheKept {s t : State} (h : Loads s t) : CacheKept s t := by
  obtain ⟨_, _, _, _, _, _, _, rfl, -⟩ := h
  exact .rfl

theorem transact_keptOrRefreshed (s : State) (op : TxOp) : KeptOrRefreshed s (s.transact op) :=
  runPhases_keptOrRefreshed 9 ((s.accept op).answer .accepted)

theorem respond_keptOrRefreshed (s : State) (f : List Byte) : KeptOrRefreshed s (s.respond f) := by
  unfold State.respond
  split
  · exact (recvWith_cacheKept f s).followedBy (runPhases_keptOrRefreshed 3 _)
  · exact .inl .rfl

theorem Effect.keptOrRefreshed {i : Instr} {s t : State} (e : Effect i s t) : KeptOrRefreshed s t := by
  cases e with
  | answered r => exact .inl .rfl
  | address a => exact .inl .rfl
  | delays r w q => exact .inl .rfl
  | loaded t _ hl => exact .inl hl.cacheKept
  | transacted t op _ hl => exact hl.cacheKept.followedBy (transact_keptOrRefreshed t op)
  | responded f => exact respond_keptOrRefreshed s f

theorem step_keptOrRefreshed {s t : State} (hstep : step s = .next t) :
    KeptOrRefreshed s t ∨ ∃ rest, s.port = .reset :: rest := by
  obtain ⟨u, hu, hcases⟩ := step_cases hstep
  have hkept : CacheKept s u := by rw [hu]; exact .rfl
  rcases hcases with ⟨-, rfl⟩ | ⟨op, -, -, -, rfl⟩ | ⟨-, -, -, rfl⟩ | ⟨rest, hport, -⟩ | ⟨i, -, -, he⟩
  · exact .inl (hkept.followedBy (seqStep_keptOrRefreshed u))
  · exact .inl (.inl hkept)
  · exact .inl (.inl hkept)
  · exact .inr ⟨rest, hport⟩
  · exact .inl (hkept.followedBy he.keptOrRefreshed)

/-- Settles O55: of the phases DELIVER alone writes the cache, and it ends the run it stands in. -/
theorem onlyASuccessfulRefreshChangesTheCache : Obligations.OnlyASuccessfulRefreshChangesTheCache := by
  intro s t hstep
  rcases step_keptOrRefreshed hstep with (⟨hcache, hvalid, -⟩ | hdone) | hreset
  · exact .inl ⟨hcache, hvalid⟩
  · exact .inr (.inl hdone)
  · exact .inr (.inr hreset)

end Sys2Proof.Machine

/-!
The transport operations of a command (20_memory.md R52, 42_transaction.md R113), and the registers of a preset command
(20_memory.md R49).
-/

namespace Sys2Proof.Machine

/-! ### What a legal command sends and expects -/

theorem frameOf_eq {s : State} {op : TxOp} {r : Request} {f : List Byte} (h : s.request op = some r)
    (hf : r.frame s.devaddr = some f) : s.frameOf op = f := by
  simp only [State.frameOf, h, hf, Option.getD_some]

theorem lenOf_eq {s : State} {op : TxOp} {r : Request} (h : s.request op = some r) : s.lenOf op = r.responseLen := by
  simp only [State.lenOf, h]

/-! ### The trace up to SEND, and up to RECV -/

theorem sent_trace (s : State) (op : TxOp) (r : Request) (f : List Byte) (p : Phase) :
    (s.sent op r f p).link.trace
      = s.link.trace ++ [.setReadTimeout (s.timeoutOf op), .write f s.link.nextCount] := by
  simp [State.sent]

theorem waiting_trace (s : State) (op : TxOp) (r : Request) (f : List Byte) :
    (s.waiting op r f).link.trace = s.link.trace
      ++ [.setReadTimeout (s.timeoutOf op), .write f s.link.nextCount, .delay s.tSettleMs] := by
  simp [State.waiting]

theorem answered_trace {s : State} {op : TxOp} {r : Request} {f : List Byte} (h : s.request op = some r)
    (hf : r.frame s.devaddr = some f) :
    (s.answered op r f).link.trace = s.link.trace
      ++ [.setReadTimeout (s.timeoutOf op), .write f s.link.nextCount, .delay s.tSettleMs,
        .readExactly r.responseLen (s.link.answerTo r.responseLen)] := by
  simp only [State.answered, State.afterRead, Link.readExactly_trace]
  rw [waiting_received h hf, waiting_rxLen h hf, waiting_trace, List.append_assoc]
  rfl

/-- EXC, CRC and DELIVER make no transport operation, whatever the verdict. -/
theorem transact_answered_link {s : State} {op : TxOp} {r : Request} {f : List Byte} (h : s.request op = some r)
    (hp : s.link.present = true) (hf : r.frame s.devaddr = some f) (hn : s.link.nextCount = f.length) :
    (s.transact op).link = (s.answered op r f).link := by
  rw [transact_answered h hp hf hn]
  rcases responseVerdict_cases r.responseLen (s.link.answerTo r.responseLen) with hv | hv | hv | hv <;> rw [hv]
  exact State.publish_link _

/-! ### The trace a command ought to have, case by case -/

theorem traceOf_incomplete {s : State} {op : TxOp} (h : s.verdict op = .transportWriteIncomplete) :
    s.traceOf op = [.setReadTimeout (s.timeoutOf op), .write (s.frameOf op) s.link.nextCount] := by
  simp only [State.traceOf, h]

theorem traceOf_answered {s : State} {op : TxOp} {len : Nat} {bs : List Byte}
    (h : s.verdict op = responseVerdict len bs) :
    s.traceOf op = [.setReadTimeout (s.timeoutOf op), .write (s.frameOf op) s.link.nextCount, .delay s.tSettleMs,
      .readExactly (s.lenOf op) (s.link.answerTo (s.lenOf op))] := by
  rw [State.traceOf, h]
  rcases responseVerdict_cases len bs with hv | hv | hv | hv <;> rw [hv] <;> rfl

/-- Settles O36: the four cases of a command, each by its state in closed form. -/
theorem traceIsCutWhereTheCommandEnds : Obligations.TraceIsCutWhereTheCommandEnds := by
  intro s op _
  rcases transact_cases s op with h | ⟨r, h, hp⟩ | ⟨r, f, h, hp, hf, hn⟩ | ⟨r, f, h, hp, hf, hn⟩
  · have htrace : s.traceOf op = [] := by simp only [State.traceOf, verdict_invalid h]
    rw [transact_invalid h, htrace, List.append_nil]
  · have htrace : s.traceOf op = [] := by simp only [State.traceOf, verdict_absent h hp]
    rw [transact_absent h hp, htrace, List.append_nil]
  · rw [transact_incomplete h hp hf hn, traceOf_incomplete (verdict_incomplete h hp hf hn), frameOf_eq h hf]
    exact sent_trace s op r f .idle
  · rw [transact_answered_link h hp hf hn, answered_trace h hf, traceOf_answered (verdict_answered h hp hf hn),
      frameOf_eq h hf, lenOf_eq h]

/-! ### Preset blocks -/

theorem request_presetRd {s : State} (h : s.x4.toNat < 10) :
    s.request .presetRd = some (.read (presetAddr s.x4) Config.presetWords) :=
  if_pos ((slotOk_iff s.x4).2 h)

theorem request_presetWr {s : State} (h : s.x4.toNat < 10) :
    s.request .presetWr
      = some (.writeN (presetAddr s.x4) Config.presetWords Config.presetBytes (presetEnc s.pr)) :=
  if_pos ((slotOk_iff s.x4).2 h)

/-- The last register of a block lies at or below 0x00ED (20_memory.md R49). -/
theorem presetBlock_end_le {slot : Byte} (h : slot.toNat < 10) :
    (presetAddr slot).toNat + Config.presetWords.toNat ≤ 0x00ED + 1 := by
  have hwords : Config.presetWords.toNat = 14 := rfl
  rw [presetAddr_toNat h, hwords]
  omega

/-- Settles O13: both commands take the fourteen registers of the slot's block. -/
theorem presetCommandsStayInsideTheirBlock : Obligations.PresetCommandsStayInsideTheirBlock := by
  intro s hslot
  have hstart := presetAddr_toNat hslot
  have hend := presetBlock_end_le hslot
  exact ⟨⟨_, _, request_presetRd hslot, hstart, rfl, hend⟩,
    ⟨_, _, _, _, request_presetWr hslot, hstart, rfl, presetEnc_length s.pr, rfl, hend⟩⟩

end Sys2Proof.Machine

/-!
The frames as encodings (30_encoding.md): decoding what the encoder writes, encoding what the decoder reads, and the Frame
Builder's frames as encodings.
-/

namespace Sys2Proof

open Machine

/-! ### The checksum that closes a request -/

/-- A frame that passes the check is closed by its own checksum (40_checksum.md R82, R83). -/
theorem eq_appendCrc_of_crcMatches {h : List Byte} {a b : Byte} (hm : crcMatches (h ++ [a, b]) = true) :
    h ++ [a, b] = appendCrc h := by
  rw [appendCrc, crcBytes, (crcMatches_append h a b).1 hm, lo8_be16, hi8_be16]

theorem checkedRequest_eq_ok {frame : List Byte} {answer got : Byte × Instr} :
    checkedRequest frame answer = .ok got ↔ crcMatches frame = true ∧ answer = got := by
  unfold checkedRequest
  split <;> simp [*]

theorem checkedRequest_appendCrc (h : List Byte) (answer : Byte × Instr) :
    checkedRequest (appendCrc h) answer = .ok answer :=
  checkedRequest_eq_ok.2 ⟨crcMatches_appendCrc h, rfl⟩

/-! ### Requests: the words of an instruction, decoded -/

/-- The words of a composite are those of the primitive it expands to (30_encoding.md R74). -/
theorem encode_expand {i : Instr} (hi : i.wellFormed = true) (addr : Byte) (pr : PresetRecord) :
    encode addr pr (i.expand pr) = encode addr pr i := by
  cases i with
  | presetRd slot | presetWr slot =>
    obtain ⟨hhi, hlo⟩ := presetAddr_bytes (of_decide_eq_true hi)
    simp only [Instr.expand, encode, wordBytes, hhi, hlo]
    rfl
  | _ => rfl

theorem decodeRequest_encode_rdreg {addr : Byte} {pr : PresetRecord} {start count : Word} {frame : List Byte}
    (h : encode addr pr (.rdreg start count) = some frame) :
    decodeRequest frame = .ok (addr, .rdreg start count) := by
  cases h
  refine (checkedRequest_appendCrc _ (addr, .rdreg (be16 (hi8 start) (lo8 start)) (be16 (hi8 count) (lo8 count)))).trans ?_
  rw [be16_hi8_lo8, be16_hi8_lo8]

theorem decodeRequest_encode_wrreg {addr : Byte} {pr : PresetRecord} {reg value : Word} {frame : List Byte}
    (h : encode addr pr (.wrreg reg value) = some frame) :
    decodeRequest frame = .ok (addr, .wrreg reg value) := by
  cases h
  refine (checkedRequest_appendCrc _ (addr, .wrreg (be16 (hi8 reg) (lo8 reg)) (be16 (hi8 value) (lo8 value)))).trans ?_
  rw [be16_hi8_lo8, be16_hi8_lo8]

/-- The byte count says where the data ends and the checksum begins (30_encoding.md R63). -/
theorem decodeRequest_encode_wrmul {addr : Byte} {pr : PresetRecord} {start count : Word} {n : Byte} {data : List Byte}
    {frame : List Byte} (hn : data.length = n.toNat) (h : encode addr pr (.wrmul start count n data) = some frame) :
    decodeRequest frame = .ok (addr, .wrmul start count n data) := by
  cases h
  have hrest : ∀ k : List Byte, (data ++ k).take n.toNat = data := fun k => by rw [← hn, List.take_left]
  have hcrc := checkedRequest_appendCrc ([addr, 0x10#8] ++ wordBytes start ++ wordBytes count ++ [n] ++ data)
    (addr, .wrmul start count n data)
  simpa [appendCrc, decodeRequest, wordBytes, crcBytes, hrest, hn, Config.fcRead, Config.fcWrite1,
    Config.fcWriteN] using hcrc

/-! ### Responses: the words of an instruction, decoded -/

theorem decodeResponse_responseR {addr : Byte} {func : BitVec 7} {n : Byte} {data : List Byte} {crc : Word}
    (hlen : 2 ≤ data.length) (heven : data.length % 2 = 0) :
    decodeResponse .read (responseR addr func n data crc) = .ok (.rspR addr func n data crc) := by
  have hcond : 4 ≤ data.length + 2 ∧ (data.length + 2) % 2 = 0 := by omega
  simp [decodeResponse, responseR, hcond]

theorem decodeResponse_write1_responseW (addr : Byte) (func : BitVec 7) (reg value crc : Word) :
    decodeResponse .write1 (responseW addr func reg value crc) = .ok (.rspW1 addr func reg value crc) := by
  simp [decodeResponse, responseW, wordBytes]

theorem decodeResponse_writeN_responseW (addr : Byte) (func : BitVec 7) (start count crc : Word) :
    decodeResponse .writeN (responseW addr func start count crc) = .ok (.rspWn addr func start count crc) := by
  simp [decodeResponse, responseW, wordBytes]

/-- Bit 7 of the function code alone decides, whatever the transaction was (30_encoding.md R67). -/
theorem decodeResponse_responseX (kind : Kind) (addr : Byte) (func : BitVec 7) (excCode : Byte) (crc : Word)
    (tail : List Byte) :
    decodeResponse kind (responseX addr func excCode crc tail) = .ok (.rspX addr func excCode crc tail) := by
  simp [decodeResponse, responseX]

/-- Settles O1: each format by its decode lemma, a composite through the primitive whose words it has. -/
theorem decodeOfEncodeGivesTheInstruction : Obligations.DecodeOfEncodeGivesTheInstruction := by
  intro addr pr i frame hi h
  have hexpand := (encode_expand hi addr pr).trans h
  cases i with
  | rdreg start count => exact decodeRequest_encode_rdreg h
  | wrreg reg value => exact decodeRequest_encode_wrreg h
  | wrmul start count n data =>
    obtain ⟨-, hlen⟩ := Bool.and_eq_true_iff.1 hi
    exact decodeRequest_encode_wrmul (eq_of_beq hlen) h
  | refresh => exact decodeRequest_encode_rdreg hexpand
  | presetRd slot => exact decodeRequest_encode_rdreg hexpand
  | presetWr slot => exact decodeRequest_encode_wrmul (presetEnc_length pr) hexpand
  | setVolt value => exact decodeRequest_encode_wrreg hexpand
  | rspR a func n data crc =>
    cases h
    obtain ⟨hrange, heven⟩ := Bool.and_eq_true_iff.1 hi
    obtain ⟨hlen, -⟩ := Bool.and_eq_true_iff.1 hrange
    exact decodeResponse_responseR (of_decide_eq_true hlen) (eq_of_beq heven)
  | rspW1 a func reg value crc => cases h; exact decodeResponse_write1_responseW ..
  | rspWn a func start count crc => cases h; exact decodeResponse_writeN_responseW ..
  | rspX a func excCode crc tail => cases h; exact fun kind => decodeResponse_responseX kind ..
  | _ => cases h

/-! ### What a frame decodes to, encoded -/

theorem encode_rdreg_of_crcMatches {addr aHi aLo bHi bLo kLo kHi : Byte} (pr : PresetRecord)
    (hm : crcMatches [addr, Config.fcRead, aHi, aLo, bHi, bLo, kLo, kHi] = true) :
    encode addr pr (.rdreg (be16 aHi aLo) (be16 bHi bLo)) = some [addr, Config.fcRead, aHi, aLo, bHi, bLo, kLo, kHi] := by
  simp only [encode, wordBytes, hi8_be16, lo8_be16]
  exact congrArg some (eq_appendCrc_of_crcMatches (h := [addr, Config.fcRead, aHi, aLo, bHi, bLo]) hm).symm

theorem encode_wrreg_of_crcMatches {addr aHi aLo bHi bLo kLo kHi : Byte} (pr : PresetRecord)
    (hm : crcMatches [addr, Config.fcWrite1, aHi, aLo, bHi, bLo, kLo, kHi] = true) :
    encode addr pr (.wrreg (be16 aHi aLo) (be16 bHi bLo))
      = some [addr, Config.fcWrite1, aHi, aLo, bHi, bLo, kLo, kHi] := by
  simp only [encode, wordBytes, hi8_be16, lo8_be16]
  exact congrArg some (eq_appendCrc_of_crcMatches (h := [addr, Config.fcWrite1, aHi, aLo, bHi, bLo]) hm).symm

theorem encode_wrmul_of_crcMatches {addr aHi aLo bHi bLo n : Byte} {more : List Byte} (pr : PresetRecord)
    (hlen : more.length = n.toNat + 2)
    (hm : crcMatches (addr :: Config.fcWriteN :: aHi :: aLo :: bHi :: bLo :: n :: more) = true) :
    encode addr pr (.wrmul (be16 aHi aLo) (be16 bHi bLo) n (more.take n.toNat))
      = some (addr :: Config.fcWriteN :: aHi :: aLo :: bHi :: bLo :: n :: more) := by
  obtain ⟨kLo, kHi, hk⟩ := List.length_eq_two.1 (show (more.drop n.toNat).length = 2 by simp [hlen])
  rw [← List.take_append_drop n.toNat more, hk] at hm
  simp only [encode, wordBytes, hi8_be16, lo8_be16]
  refine congrArg some ((eq_appendCrc_of_crcMatches
    (h := [addr, Config.fcWriteN, aHi, aLo, bHi, bLo, n] ++ more.take n.toNat) hm).symm.trans ?_)
  rw [← hk, List.append_assoc, List.take_append_drop]
  rfl

/-- The function code and the length it gives leave a frame that its own checksum closes. -/
theorem encode_of_decodeRequest {addr : Byte} {i : Instr} {frame : List Byte} (h : decodeRequest frame = .ok (addr, i))
    (pr : PresetRecord) : encode addr pr i = some frame := by
  unfold decodeRequest at h
  split at h
  · split at h
    · next hread =>
      subst hread
      split at h
      · next hlen =>
        obtain ⟨kLo, kHi, rfl⟩ := List.length_eq_two.1 hlen
        obtain ⟨hm, hi⟩ := checkedRequest_eq_ok.1 h
        cases hi
        exact encode_rdreg_of_crcMatches pr hm
      · cases h
    · split at h
      · next hwrite1 =>
        subst hwrite1
        split at h
        · next hlen =>
          obtain ⟨kLo, kHi, rfl⟩ := List.length_eq_two.1 hlen
          obtain ⟨hm, hi⟩ := checkedRequest_eq_ok.1 h
          cases hi
          exact encode_wrreg_of_crcMatches pr hm
        · cases h
      · split at h
        · next hwriteN =>
          subst hwriteN
          split at h
          · split at h
            · next hlen =>
              obtain ⟨hm, hi⟩ := checkedRequest_eq_ok.1 h
              cases hi
              exact encode_wrmul_of_crcMatches pr hlen hm
            · cases h
          · cases h
        · split at h <;> cases h
  · cases h

theorem responseFunc_of_msb {b : Byte} {exc : Bool} (h : b.msb = exc) : responseFunc exc (b.setWidth 7) = b := by
  rw [← h, responseFunc_parts]

/-- A read response's data and checksum, cut apart by the decoder, are the bytes after the byte count. -/
theorem responseR_of_rest {addr func n : Byte} {more : List Byte} (hfunc : func.msb = false) (hlen : 2 ≤ more.length) :
    responseR addr (func.setWidth 7) n (more.take (more.length - 2))
      (be16 (more.getD (more.length - 1) 0#8) (more.getD (more.length - 2) 0#8)) = addr :: func :: n :: more := by
  rw [responseR, responseFunc_of_msb hfunc, lo8_be16, hi8_be16, List.append_assoc, ← split_crc more hlen]
  rfl

theorem encode_of_decodeResponse {kind : Kind} {i : Instr} {frame : List Byte}
    (h : decodeResponse kind frame = .ok i) (addr : Byte) (pr : PresetRecord) : encode addr pr i = some frame := by
  unfold decodeResponse at h
  split at h
  · split at h
    · next hexc =>
      split at h
      · cases h
        simp [encode, responseX, responseFunc_of_msb hexc]
      · cases h
    · next hexc =>
      have hfunc := responseFunc_of_msb (eq_false_of_ne_true hexc)
      split at h
      · split at h
        · split at h
          · next hlen =>
            cases h
            exact congrArg some (responseR_of_rest (eq_false_of_ne_true hexc) (by omega))
          · cases h
        · cases h
      · split at h
        · cases h
          simp [encode, responseW, wordBytes, hfunc]
        · cases h
      · split at h
        · cases h
          simp [encode, responseW, wordBytes, hfunc]
        · cases h
  · cases h

/-- Settles O2: both decoders, inverted branch by branch. -/
theorem encodeOfDecodedGivesTheFrame : Obligations.EncodeOfDecodedGivesTheFrame :=
  fun addr pr _ _ _ => ⟨fun h => encode_of_decodeRequest h pr, fun h => encode_of_decodeResponse h addr pr⟩

/-! ### The Frame Builder -/

theorem frame_read_eq_encode (addr : Byte) (pr : PresetRecord) (start : Word) {count : Word}
    (h : readCountOk count = true) :
    (Request.read start count).frame addr = encode addr pr (.rdreg start count) :=
  buildRead_eq addr start h

theorem frame_write1_eq_encode (addr : Byte) (pr : PresetRecord) (reg value : Word) :
    (Request.write1 reg value).frame addr = encode addr pr (.wrreg reg value) := rfl

theorem frame_writeN_eq_encode (addr : Byte) (pr : PresetRecord) (start : Word) {count : Word} {n : Byte}
    (h : writeCountOk count n = true) (data : List Byte) :
    (Request.writeN start count n data).frame addr = encode addr pr (.wrmul start count n data) :=
  buildWriteN_eq addr start h data

/-- The builder of a legal command sends the command's words, a composite those of its primitive. -/
theorem request_frame_eq_encode {s : State} {op : TxOp} {r : Request} (h : s.request op = some r) (addr : Byte) :
    r.frame addr = encode addr s.pr (s.instrOf op) := by
  cases op <;> simp only [State.request, Option.ite_none_right_eq_some, Option.some.injEq] at h
  case rdreg =>
    obtain ⟨hcount, rfl⟩ := h
    exact frame_read_eq_encode addr s.pr s.x0 hcount
  case wrreg =>
    subst h
    exact frame_write1_eq_encode addr s.pr s.x0 s.x2
  case wrmul =>
    obtain ⟨hcount, rfl⟩ := h
    exact frame_writeN_eq_encode addr s.pr s.x0 hcount _
  case refresh =>
    subst h
    exact (frame_read_eq_encode addr s.pr _ (by decide)).trans (encode_expand (i := .refresh) rfl addr s.pr)
  case presetRd =>
    obtain ⟨hslot, rfl⟩ := h
    exact (frame_read_eq_encode addr s.pr _ (by decide)).trans (encode_expand (i := .presetRd s.x4) hslot addr s.pr)
  case presetWr =>
    obtain ⟨hslot, rfl⟩ := h
    exact (frame_writeN_eq_encode addr s.pr _ (by decide) _).trans
      (encode_expand (i := .presetWr s.x4) hslot addr s.pr)
  case setVolt =>
    subst h
    exact (frame_write1_eq_encode addr s.pr _ s.x2).trans (encode_expand (i := .setVolt s.x2) rfl addr s.pr)

/-- Settles O3: a legal command's builder succeeds, on the command's words. -/
theorem frameBuilderSendsTheEncodedWords : Obligations.FrameBuilderSendsTheEncodedWords := by
  intro s op r h
  obtain ⟨f, hf⟩ := Option.isSome_iff_exists.1 (request_frame_isSome h s.devaddr)
  obtain ⟨hlen, -⟩ := frame_length_le h hf
  exact ⟨f, hf, (request_frame_eq_encode h s.devaddr).symm.trans hf, hlen⟩

/-- Settles O4: the requests are the encoder's words, each checksum computed; a response is decoded as it stands. -/
theorem wordsFromTheTablesDecode : Obligations.WordsFromTheTablesDecode :=
  ⟨decodeRequest_encode_rdreg (pr := zeroRecord) (by decide +kernel),
    decodeRequest_encode_wrreg (pr := zeroRecord) (by decide +kernel),
    decodeRequest_encode_wrmul (pr := zeroRecord) rfl (by decide +kernel), rfl, rfl⟩

end Sys2Proof

/-!
A transaction command with immediate operands, turn by turn (30_encoding.md R73, 42_transaction.md R95, R96): the operand
loads, the bare command, and the phases, which never look at the coming turns.
-/

namespace Sys2Proof.Machine

/-- The state with other coming turns and another last answer: neither is the sequencer's business. -/
def State.facing (s : State) (turns : List Turn) (r : Reply) : State := { s with port := turns, reply := r }

/-! ### The phases do not look at the coming turns -/

@[simp] theorem facing_seq (s : State) (turns : List Turn) (r : Reply) : (s.facing turns r).seq = s.seq := rfl
@[simp] theorem facing_cur (s : State) (turns : List Turn) (r : Reply) : (s.facing turns r).cur = s.cur := rfl
@[simp] theorem facing_link (s : State) (turns : List Turn) (r : Reply) : (s.facing turns r).link = s.link := rfl
@[simp] theorem facing_devaddr (s : State) (turns : List Turn) (r : Reply) :
    (s.facing turns r).devaddr = s.devaddr := rfl

@[simp] theorem bytesAt_facing (s : State) (turns : List Turn) (r : Reply) (sp : Space) (a n : Nat) :
    (s.facing turns r).bytesAt sp a n = s.bytesAt sp a n :=
  State.bytesAt_congr sp (by cases sp <;> rfl) (by rfl) n a

@[simp] theorem byteAt_facing (s : State) (turns : List Turn) (r : Reply) (sp : Space) (a : Nat) :
    (s.facing turns r).byteAt sp a = s.byteAt sp a :=
  State.byteAt_congr sp a (by cases sp <;> rfl) (by rfl)

@[simp] theorem request_facing (s : State) (turns : List Turn) (r : Reply) (op : TxOp) :
    (s.facing turns r).request op = s.request op :=
  request_congr (by exact ⟨rfl, rfl, rfl, rfl, rfl⟩) (by rfl) (by rfl) (by rfl) op

theorem phaseCheck_facing (s : State) (turns : List Turn) (r : Reply) :
    phaseCheck (s.facing turns r) = (phaseCheck s).facing turns r := by
  simp only [phaseCheck, request_facing, facing_cur]
  cases s.request s.cur.op with
  | none => rfl
  | some q => cases h : s.link.present <;> simp [h] <;> rfl

theorem phaseBuild_facing (s : State) (turns : List Turn) (r : Reply) :
    phaseBuild (s.facing turns r) = (phaseBuild s).facing turns r := by
  simp only [phaseBuild, request_facing, facing_cur, facing_devaddr]
  cases s.request s.cur.op with
  | none => rfl
  | some q =>
    dsimp only
    cases q.frame s.devaddr with
    | none => rfl
    | some f => rfl

theorem phaseSend_facing (s : State) (turns : List Turn) (r : Reply) :
    phaseSend (s.facing turns r) = (phaseSend s).facing turns r := by
  have htx : (s.facing turns r).txFrame = s.txFrame := bytesAt_facing ..
  by_cases h : s.link.nextCount = s.cur.txLen.val
  · rw [phaseSend_full h, phaseSend_full (s := s.facing turns r) h, htx]; rfl
  · rw [phaseSend_short h, phaseSend_short (s := s.facing turns r) h, htx]; rfl

theorem phaseRecv_facing (s : State) (turns : List Turn) (r : Reply) :
    phaseRecv (s.facing turns r) = (phaseRecv s).facing turns r := by
  rw [phaseRecv, phaseRecv, recvWith_eq, recvWith_eq]
  rfl

theorem phaseExc_facing (s : State) (turns : List Turn) (r : Reply) :
    phaseExc (s.facing turns r) = (phaseExc s).facing turns r := by
  simp only [phaseExc, byteAt_facing]
  split <;> rfl

theorem phaseCrc_facing (s : State) (turns : List Turn) (r : Reply) :
    phaseCrc (s.facing turns r) = (phaseCrc s).facing turns r := by
  simp only [phaseCrc, bytesAt_facing, byteAt_facing, facing_cur]
  split <;> rfl

theorem phaseDeliver_facing (s : State) (turns : List Turn) (r : Reply) :
    phaseDeliver (s.facing turns r) = (phaseDeliver s).facing turns r := by
  have hpublish : (s.facing turns r).publish = s.publish.facing turns r := by
    by_cases hrefresh : s.cur.op = .refresh
    · rw [publish_refresh hrefresh, publish_refresh (s := s.facing turns r) hrefresh, bytesAt_facing]
      generalize s.bytesAt .rxbuf 3 60 = payload
      rfl
    · by_cases hpreset : s.cur.op = .presetRd
      · rw [publish_presetRd hpreset, publish_presetRd (s := s.facing turns r) hpreset, bytesAt_facing]
        generalize s.bytesAt .rxbuf 3 28 = payload
        rfl
      · rw [publish_other hrefresh hpreset, publish_other (s := s.facing turns r) hrefresh hpreset]
  rw [phaseDeliver, phaseDeliver, hpublish]
  rfl

theorem seqStep_facing (s : State) (turns : List Turn) (r : Reply) :
    seqStep (s.facing turns r) = (seqStep s).facing turns r := by
  have hseq := facing_seq s turns r
  cases hs : s.seq with rw [hs] at hseq
  | idle => rw [seqStep_idle hs, seqStep_idle hseq]
  | check => rw [seqStep_check hs, seqStep_check hseq, phaseCheck_facing]
  | build => rw [seqStep_build hs, seqStep_build hseq, phaseBuild_facing]
  | timeout => rw [seqStep_timeout hs, seqStep_timeout hseq]; rfl
  | send => rw [seqStep_send hs, seqStep_send hseq, phaseSend_facing]
  | settle => rw [seqStep_settle hs, seqStep_settle hseq]; rfl
  | recv => rw [seqStep_recv hs, seqStep_recv hseq, phaseRecv_facing]
  | exc => rw [seqStep_exc hs, seqStep_exc hseq, phaseExc_facing]
  | crc => rw [seqStep_crc hs, seqStep_crc hseq, phaseCrc_facing]
  | deliver => rw [seqStep_deliver hs, seqStep_deliver hseq, phaseDeliver_facing]

/-! ### One turn -/

theorem hostWriteIf_idle {s : State} (hs : s.seq = .idle) (ok : Bool) (write : State → State) :
    s.hostWriteIf ok write = if ok then (write s).answer .accepted else s.turnAway .range := by
  rw [State.hostWriteIf, if_neg (by simp [State.busy, hs])]

theorem setX_facing (s : State) (i : Nat) (v : Word) (turns : List Turn) (r : Reply) :
    (s.facing turns r).setX i v = (s.setX i v).facing turns r := by
  unfold State.setX
  split <;> rfl

theorem step_setx {s : State} (hs : s.seq = .idle) {i : Nat} (hi : i < 5) (v : Word) (rest : List Turn) (r : Reply) :
    step (s.facing (.instr (.setx i v) :: rest) r) = .next ((s.setX i v).facing rest .accepted) := by
  have htaken := hostWriteIf_idle (s := s.facing rest r) hs (decide (i < 5)) fun s => s.setX i v
  rw [if_pos (decide_eq_true hi), setX_facing] at htaken
  exact congrArg Host.Outcome.next htaken

theorem step_setdata_in_range {s : State} (hs : s.seq = .idle) {k : Nat} (hk : k < Config.spaceSize .data) (b : Byte)
    (rest : List Turn) (r : Reply) :
    step (s.facing (.instr (.setdata k b) :: rest) r) = .next ((s.store .data k [b]).facing rest .accepted) := by
  have htaken := hostWriteIf_idle (s := s.facing rest r) hs (decide (k < Config.spaceSize .data))
    fun s => s.store .data k [b]
  rw [if_pos (decide_eq_true hk)] at htaken
  exact congrArg Host.Outcome.next htaken

theorem step_setdata_out_of_range {s : State} (hs : s.seq = .idle) {k : Nat} (hk : ¬ k < Config.spaceSize .data)
    (b : Byte) (rest : List Turn) (r : Reply) :
    step (s.facing (.instr (.setdata k b) :: rest) r) = .next (s.facing rest (.refused .range)) := by
  have haway := hostWriteIf_idle (s := s.facing rest r) hs (decide (k < Config.spaceSize .data))
    fun s => s.store .data k [b]
  rw [if_neg (by simpa using hk)] at haway
  exact congrArg Host.Outcome.next haway

theorem step_issue {s : State} (hs : s.seq = .idle) (op : TxOp) (rest : List Turn) (r : Reply) :
    step (s.facing (.issue op :: rest) r) = .next ((s.accept op).facing rest .accepted) := by
  have haccept : (s.facing rest r).issue op = (s.accept op).facing rest .accepted := by
    rw [State.issue, if_neg (by simp [State.busy, hs])]
    rfl
  exact congrArg Host.Outcome.next haccept

/-! ### The loads -/

/-- The turns `ts` take `s` to `t` but for the answer, whatever turns come after them. -/
def LoadedBy (ts : List Turn) (s t : State) : Prop :=
  ∀ (n : Nat) (rest : List Turn) (r : Reply), ∃ r',
    Host.Core.run Sys2Proof.core (ts.length + n) (s.facing (ts ++ rest) r)
      = Host.Core.run Sys2Proof.core n (t.facing rest r')

theorem LoadedBy.nil {s : State} : LoadedBy [] s s :=
  fun n _ r => ⟨r, by rw [List.length_nil, Nat.zero_add, List.nil_append]⟩

theorem LoadedBy.cons {turn : Turn} {ts : List Turn} {s t u : State}
    (hstep : ∀ rest r, ∃ r', step (s.facing (turn :: rest) r) = .next (t.facing rest r')) (h : LoadedBy ts t u) :
    LoadedBy (turn :: ts) s u := by
  intro n rest r
  obtain ⟨r₁, h₁⟩ := hstep (ts ++ rest) r
  obtain ⟨r₂, h₂⟩ := h n rest r₁
  exact ⟨r₂, by rw [List.length_cons, Nat.add_right_comm, List.cons_append, run_step _ _ h₁, h₂]⟩

theorem LoadedBy.setx {ts : List Turn} {s t : State} (hs : s.seq = .idle) {i : Nat} (hi : i < 5) {v : Word}
    (h : LoadedBy ts (s.setX i v) t) : LoadedBy (.instr (.setx i v) :: ts) s t :=
  .cons (fun rest r => ⟨.accepted, step_setx hs hi v rest r⟩) h

/-- SETDATA byte by byte stores what DATA can hold and is turned away beyond (44_config_ops.md R144). -/
theorem LoadedBy.setdata : ∀ (bs : List Byte) (k : Nat) {s : State}, s.seq = .idle →
    LoadedBy (dataLoads k bs) s (s.store .data k (bs.take (Config.spaceSize .data - k)))
  | [], _, _, _ => by rw [List.take_nil]; exact .nil
  | b :: bs, k, s, hs => by
    have hrest {t : State} := LoadedBy.setdata bs (k + 1) (s := t)
    by_cases hk : k < Config.spaceSize .data
    · rw [show Config.spaceSize .data - k = (Config.spaceSize .data - (k + 1)) + 1 by omega, List.take_succ_cons]
      exact .cons (fun rest r => ⟨.accepted, step_setdata_in_range hs hk b rest r⟩) (hrest (by simpa using hs))
    · have hall := hrest hs
      rw [show Config.spaceSize .data - (k + 1) = 0 by omega, List.take_zero] at hall
      rw [show Config.spaceSize .data - k = 0 by omega, List.take_zero]
      exact .cons (fun rest r => ⟨.refused .range, step_setdata_out_of_range hs hk b rest r⟩) hall

theorem LoadedBy.loadData {s : State} (hs : s.seq = .idle) (bs : List Byte) :
    LoadedBy (dataLoads 0 bs) s (s.loadData bs) :=
  .setdata bs 0 hs

/-! ### The bare command and its nine phases -/

theorem run_ticks (rest : List Turn) (r : Reply) : ∀ (n : Nat) (s : State),
    Host.Core.run Sys2Proof.core n (s.facing (List.replicate n .tick ++ rest) r)
      = .next ((runPhases n s).facing rest r)
  | 0, s => rfl
  | n + 1, s => by
    have hrun : runPhases (n + 1) s = runPhases n (seqStep s) := by
      by_cases hs : s.seq = .idle
      · rw [seqStep_idle hs, runPhases_idle hs, runPhases_idle hs]
      · exact runPhases_succ hs n
    have hstep : step (s.facing (List.replicate (n + 1) .tick ++ rest) r)
        = .next ((seqStep s).facing (List.replicate n .tick ++ rest) r) :=
      congrArg Host.Outcome.next (seqStep_facing s _ r)
    rw [run_step n _ hstep, run_ticks rest r n, hrun]

/-- A run of phases keeps the coming turns and the answer. -/
theorem runPhases_facing_self (n : Nat) (s : State) : (runPhases n s).facing s.port s.reply = runPhases n s := by
  have hkeeps := runPhases_keeps n s
  obtain ⟨-, -, hport, -⟩ := hkeeps.around
  rw [← hport, ← hkeeps.reply]
  rfl

theorem run_issue {s : State} (hs : s.seq = .idle) (op : TxOp) (r : Reply) :
    Host.Core.run Sys2Proof.core 10 (s.facing (.issue op :: (List.replicate 9 .tick ++ s.port)) r)
      = .next (s.transact op) := by
  rw [run_step 9 _ (step_issue hs op _ r)]
  have hticks := run_ticks s.port .accepted 9 ((s.accept op).answer .accepted)
  have hself := runPhases_facing_self 9 ((s.accept op).answer .accepted)
  exact hticks.trans (congrArg Host.Outcome.next hself)

theorem call_idle {s : State} (hs : s.seq = .idle) (load : State → State) (op : TxOp) :
    s.call load op = (load s).transact op := by
  rw [State.call, if_neg (by simp [State.busy, hs])]

/-- The operand loads, then the bare command and nine steps. -/
theorem run_command {ts : List Turn} {s : State} (hs : s.seq = .idle) (load : State → State) (op : TxOp)
    (h : LoadedBy ts s (load s)) (hseq : (load s).seq = s.seq) (hport : (load s).port = s.port) :
    Host.Core.run Sys2Proof.core ((ts ++ [Turn.issue op]).length + 9)
        { s with port := (ts ++ [Turn.issue op]) ++ List.replicate 9 .tick ++ s.port }
      = .next (s.call load op) := by
  obtain ⟨r, hr⟩ := h 10 (.issue op :: (List.replicate 9 .tick ++ (load s).port)) s.reply
  rw [run_issue (hseq.trans hs) op r, hport, ← call_idle hs] at hr
  rw [List.length_append, Nat.add_assoc, List.append_assoc, List.append_assoc]
  exact hr

/-- Settles O39: each command's loads, then the common end of all seven. -/
theorem immediateCommandIsLoadsIssueAndPhases : Obligations.ImmediateCommandIsLoadsIssueAndPhases := by
  intro s i ts hs hts
  have hx (j : Nat) (v : Word) : (s.setX j v).seq = .idle := (s.setX_seq j v).trans hs
  cases i <;> cases hts
  case rdreg start count =>
    exact run_command hs (fun s => (s.setX 0 start).setX 1 count) .rdreg
      (.setx hs (by omega) (.setx (hx 0 start) (by omega) .nil)) (by simp) (by simp)
  case wrreg reg value =>
    exact run_command hs (fun s => (s.setX 0 reg).setX 2 value) .wrreg
      (.setx hs (by omega) (.setx (hx 0 reg) (by omega) .nil)) (by simp) (by simp)
  case wrmul start count bytecount bs =>
    exact run_command hs
      (fun s => (((s.setX 0 start).setX 1 count).setX 3 (bytecount.setWidth 16)).loadData bs) .wrmul
      (.setx hs (by omega) (.setx (hx 0 start) (by omega) (.setx (by simp [hs]) (by omega)
        (.loadData (by simp [hs]) bs)))) (by simp) (by simp)
  case refresh => exact run_command hs (fun s => s) .refresh .nil rfl rfl
  case presetRd slot =>
    exact run_command hs (fun s => s.setX 4 (slot.setWidth 16)) .presetRd (.setx hs (by omega) .nil) (by simp) (by simp)
  case presetWr slot =>
    exact run_command hs (fun s => s.setX 4 (slot.setWidth 16)) .presetWr (.setx hs (by omega) .nil) (by simp) (by simp)
  case setVolt value =>
    exact run_command hs (fun s => s.setX 2 value) .setVolt (.setx hs (by omega) .nil) (by simp) (by simp)

end Sys2Proof.Machine

/-!
The Checksum Engine (40_checksum.md R80 to R84, 42_transaction.md R106): what eight iterations do to a word, that no byte's
change is lost on the way through a frame, and that a frame passes the check of step 6 exactly when its checksum is zero.
-/

namespace Sys2Proof

/-! ### The iterations -/

theorem crcShift_of_bit0_clear {c : Word} (h : c.getLsbD 0 = false) : crcShift c = c >>> 1 :=
  if_neg (by rw [h]; decide)

theorem crcShift_of_bit0_set {c : Word} (h : c.getLsbD 0 = true) : crcShift c = (c >>> 1) ^^^ Config.crcPoly :=
  if_pos h

/-- The bit shifted out decides whether the polynomial enters, and the top bit tells afterwards whether it did (R80). -/
theorem crcShift_bit15 (c : Word) : (crcShift c).getLsbD 15 = c.getLsbD 0 := by
  cases hc : c.getLsbD 0 with
  | false => rw [crcShift_of_bit0_clear hc]; simp
  | true => rw [crcShift_of_bit0_set hc]; simp [Config.crcPoly]

theorem crcShift_injective : Function.Injective crcShift := by
  intro c d h
  have h0 : c.getLsbD 0 = d.getLsbD 0 := by rw [← crcShift_bit15, h, crcShift_bit15]
  have h1 : c >>> 1 = d >>> 1 := by
    cases hc : c.getLsbD 0 with
    | false => rwa [crcShift_of_bit0_clear hc, crcShift_of_bit0_clear (h0 ▸ hc)] at h
    | true => rwa [crcShift_of_bit0_set hc, crcShift_of_bit0_set (h0 ▸ hc), BitVec.xor_left_inj] at h
  refine BitVec.eq_of_getLsbD_eq fun i _ => ?_
  cases i with
  | zero => exact h0
  | succ i => simpa [Nat.add_comm] using congrArg (BitVec.getLsbD · i) h1

theorem crcShifts_injective (n : Nat) : Function.Injective (crcShifts n) := by
  induction n with
  | zero => exact Function.injective_id
  | succ n ih => exact ih.comp crcShift_injective

/-- Iterations on clear low bits only shift. -/
theorem crcShifts_of_low_clear {n : Nat} {c : Word} (h : ∀ i < n, c.getLsbD i = false) : crcShifts n c = c >>> n := by
  induction n generalizing c with
  | zero => simp [crcShifts]
  | succ n ih =>
    have hshifted : ∀ i < n, (c >>> 1).getLsbD i = false := fun i hi => by
      rw [BitVec.getLsbD_ushiftRight]; exact h _ (by omega)
    rw [crcShifts, crcShift_of_bit0_clear (h 0 n.succ_pos), ih hshifted, ← BitVec.shiftRight_add, Nat.add_comm]

/-! ### The running value -/

theorem crcByte_injective_left (b : Byte) : Function.Injective (crcByte · b) :=
  fun _ _ h => (BitVec.xor_left_inj _).1 (crcShifts_injective 8 h)

theorem crcByte_injective_right (c : Word) : Function.Injective (crcByte c) :=
  fun _ _ h => by simpa using congrArg (BitVec.setWidth 8) ((BitVec.xor_right_inj _).1 (crcShifts_injective 8 h))

/-- Different running values stay different through the same bytes. -/
theorem crcRun_injective (bs : List Byte) : Function.Injective (crcRun · bs) := by
  induction bs with
  | nil => exact Function.injective_id
  | cons b bs ih => exact ih.comp (crcByte_injective_left b)

/-- Different bytes at one place of a sequence make different running values at its end. -/
theorem crcRun_set_injective (c : Word) {r : List Byte} {i : Nat} (hi : i < r.length) :
    Function.Injective fun b => crcRun c (r.set i b) := by
  induction r generalizing c i with
  | nil => simp at hi
  | cons a r ih =>
    cases i with
    | zero => exact (crcRun_injective r).comp (crcByte_injective_right c)
    | succ i => exact ih (crcByte c a) (Nat.lt_of_succ_lt_succ hi)

/-- A word's own low byte leaves its high byte. -/
theorem crcByte_lo8 (c : Word) : crcByte c (lo8 c) = (hi8 c).setWidth 16 := by
  have hlow : ∀ i < 8, (c ^^^ (lo8 c).setWidth 16).getLsbD i = false := fun i hi => by
    simp [lo8, hi, show i < 16 by omega]
  have hhigh : ∀ i, (c ^^^ (lo8 c).setWidth 16).getLsbD (8 + i) = c.getLsbD (8 + i) := fun i => by simp [lo8]
  rw [crcByte, crcShifts_of_low_clear hlow]
  refine BitVec.eq_of_getLsbD_eq fun i hi => ?_
  rw [BitVec.getLsbD_ushiftRight, hhigh]
  by_cases h : i < 8
  · simp [hi8, hi, h]
  · simp [hi8, h, BitVec.getLsbD_of_ge c (8 + i) (by omega)]

theorem crcByte_setWidth_self (b : Byte) : crcByte (b.setWidth 16) b = 0#16 := by
  rw [crcByte, BitVec.xor_self, crcShifts_of_low_clear (by simp)]; rfl

/-- A word's own bytes, low byte first, run it to zero. -/
theorem crcRun_own_bytes (c : Word) : crcRun c [lo8 c, hi8 c] = 0#16 := by
  simp only [crcRun, crcByte_lo8, crcByte_setWidth_self]

/-- Two bytes run a word to zero exactly when they are its own. -/
theorem crcRun_pair_eq_zero_iff (c : Word) (a b : Byte) : crcRun c [a, b] = 0#16 ↔ c = be16 b a := by
  have hzero : crcRun (be16 b a) [a, b] = 0#16 := by simpa using crcRun_own_bytes (be16 b a)
  exact ⟨fun h => crcRun_injective [a, b] (h.trans hzero.symm), fun h => h ▸ hzero⟩

/-! ### The checksum of a frame -/

theorem crc16_append (h k : List Byte) : crc16 (h ++ k) = crcRun (crc16 h) k :=
  crcRun_append _ h k

/-- The check of step 6 passes exactly the frames whose checksum is zero (R83, R84). -/
theorem crcMatches_iff_crc16_eq_zero {r : List Byte} (h : 2 ≤ r.length) : crcMatches r = true ↔ crc16 r = 0#16 := by
  conv_rhs => rw [split_crc r h, crc16_append, crcRun_pair_eq_zero_iff]
  exact crcMatches_iff r h

/-- Settles O5: a word's own bytes run it to zero. -/
theorem residueOfAClosedFrameIsZero : Obligations.ResidueOfAClosedFrameIsZero :=
  fun h => (crc16_append h _).trans (crcRun_own_bytes (crc16 h))

/-- Settles O7: the checksum of the frame is zero, so that of the changed frame is not. -/
theorem oneWrongByteIsAlwaysCaught : Obligations.OneWrongByteIsAlwaysCaught := by
  intro r i b hlen hi hmatches hb
  rw [Bool.eq_false_iff]
  intro hmatches'
  have hzero : crc16 (r.set i r[i]) = 0#16 := by
    rw [List.set_getElem_self]; exact (crcMatches_iff_crc16_eq_zero hlen).1 hmatches
  have hzero' : crc16 (r.set i b) = 0#16 := (crcMatches_iff_crc16_eq_zero (by simpa using hlen)).1 hmatches'
  rw [List.getD_eq_getElem _ _ hi] at hb
  exact hb (crcRun_set_injective Config.crcInit hi (hzero.trans hzero'.symm))

/-- Settles O6: the checksums, computed. -/
theorem referenceChecksums : Obligations.ReferenceChecksums := by
  unfold Obligations.ReferenceChecksums
  decide +kernel

/-! ### The checksum in use -/

/-- Settles O8: the answer is the checksum the builder would close the bytes with. -/
theorem crc16AnswersTheClosingChecksum : Obligations.Crc16AnswersTheClosingChecksum :=
  fun bs _ => ⟨crc16 bs, rfl, crcMatches_appendCrc bs⟩

/-- Settles O32: phase CRC, both ways out. -/
theorem crcPhaseComparesAllSixteenBits : Obligations.CrcPhaseComparesAllSixteenBits := by
  intro s hseq _ len
  rw [Machine.seqStep_crc hseq]
  exact ⟨Machine.phaseCrc_right, Machine.phaseCrc_wrong⟩

end Sys2Proof

/-!
Phase BUILD (42_transaction.md R99, R101): the frame in TXBUF, its address byte and the latched lengths
(41_frame_builder.md R90).
-/

namespace Sys2Proof.Machine

/-- Every builder puts the address byte first (41_frame_builder.md R90). -/
theorem frame_getD_zero {r : Request} {addr : Byte} {f : List Byte} (hf : r.frame addr = some f) :
    f.getD 0 0#8 = addr := by
  cases r with
  | read start count => obtain ⟨-, ⟨⟩⟩ := Option.ite_none_right_eq_some.1 hf; rfl
  | write1 reg value => cases hf; rfl
  | writeN start count n data => obtain ⟨-, ⟨⟩⟩ := Option.ite_none_right_eq_some.1 hf; rfl

/-- BUILD stores the frame in TXBUF: SEND will hand over just these bytes, and the bytes of TXBUF beyond stay. -/
theorem phaseBuild_txbuf {s : State} {r : Request} {f : List Byte} (hr : s.request s.cur.op = some r)
    (hf : r.frame s.devaddr = some f) :
    (phaseBuild s).txFrame = f ∧ ∀ a, f.length ≤ a → (phaseBuild s).byteAt .txbuf a = s.byteAt .txbuf a := by
  obtain ⟨hlen, -⟩ := frame_length_le hr hf
  rw [phaseBuild_eq hr hf]
  refine ⟨txFrame_of_stored (s := s) rfl rfl (Nat.mod_eq_of_lt (by omega)), fun a ha => ?_⟩
  refine (State.byteAt_congr (s := s.store .txbuf 0 f) .txbuf a rfl rfl).trans ?_
  rw [State.byteAt_store, if_neg (by omega)]

/-- BUILD latches the length of the frame and of the expected response, which their registers can hold (R101). -/
theorem phaseBuild_lengths {s : State} {r : Request} {f : List Byte} (hr : s.request s.cur.op = some r)
    (hf : r.frame s.devaddr = some f) :
    (phaseBuild s).cur.txLen.val = f.length ∧ (phaseBuild s).cur.rxLen.val = r.responseLen := by
  obtain ⟨hlen, -, hresp⟩ := frame_length_le hr hf
  rw [phaseBuild_eq hr hf]
  exact ⟨Nat.mod_eq_of_lt (by omega), Nat.mod_eq_of_lt (by omega)⟩

/-- Settles O27: a legal command's builder succeeds, and BUILD stores what it answers. -/
theorem buildPhaseAssemblesTheFrame : Obligations.BuildPhaseAssemblesTheFrame := by
  intro s r hseq hr
  obtain ⟨f, hf⟩ := Option.isSome_iff_exists.1 (request_frame_isSome hr s.devaddr)
  obtain ⟨hframe, hrest⟩ := phaseBuild_txbuf hr hf
  obtain ⟨htx, hrx⟩ := phaseBuild_lengths hr hf
  have heq := phaseBuild_eq hr hf
  rw [seqStep_build hseq]
  refine ⟨f, hf, hframe, htx, hrx.trans ?_, frame_getD_zero hf, hrest, ?_,
    congrArg (·.cur.op) heq, congrArg (·.cur.kind) heq⟩
  · cases r <;> rfl
  · rw [heq]; rfl

end Sys2Proof.Machine

/-!
Acceptance, the phases CHECK, TIMEOUT, SEND, RECV and DELIVER, each in every state, and what host commands do while one runs
(42_transaction.md R96 to R107, 44_config_ops.md R146).
-/

namespace Sys2Proof.Machine

/-! ### Turns -/

theorem step_of_instr {s : State} {i : Instr} {rest : List Turn} (h : s.port = .instr i :: rest) :
    step s = exec i { s with port := rest } := by
  simp only [step, h]

theorem step_of_issue {s : State} {op : TxOp} {rest : List Turn} (h : s.port = .issue op :: rest) :
    step s = .next (State.issue { s with port := rest } op) := by
  simp only [step, h]

theorem busy_eq_false {s : State} (h : s.seq = .idle) : s.busy = false := by simp [State.busy, h]

theorem busy_eq_true {s : State} (h : s.seq ≠ .idle) : s.busy = true := by simpa [State.busy] using h

theorem issue_idle {s : State} (h : s.seq = .idle) (op : TxOp) : s.issue op = (s.accept op).answer .accepted := by
  rw [State.issue, busy_eq_false h]; rfl

theorem issue_busy {s : State} (h : s.seq ≠ .idle) (op : TxOp) : s.issue op = s.turnAway .busy := by
  rw [State.issue, busy_eq_true h]; rfl

/-- Settles O25: a bare command is accepted or turned away. -/
theorem acceptanceStartsTheCommandOrRefusesIt : Obligations.AcceptanceStartsTheCommandOrRefusesIt := by
  intro s op rest hport
  rw [step_of_issue hport]
  refine ⟨fun hs => ⟨.accepted, ?_⟩, fun hs => ⟨.refused .busy, ?_⟩⟩
  · rw [issue_idle (s := { s with port := rest }) hs]; rfl
  · rw [issue_busy (s := { s with port := rest }) hs]; rfl

theorem withFetchWord_port {s : State} {nbits w : Nat} {i : Instr} (h : decodeTableWord nbits w = some i) :
    s.withFetchWord nbits w = { s with port := .instr i :: s.port } := by
  simp only [State.withFetchWord, h]

/-- Settles O52: the port's first turn is executed, and that is where a table word is placed. -/
theorem stepRunsTheNextInstruction : Obligations.StepRunsTheNextInstruction := by
  refine ⟨fun s i rest => step_of_instr, fun s nbits w i h => ?_⟩
  rw [withFetchWord_port h, step_of_instr rfl]

/-! ### Host commands while another runs -/

theorem hostWrite_busy {s : State} (h : s.seq ≠ .idle) (write : State → State) :
    s.hostWrite write = s.turnAway .busy := by
  rw [State.hostWrite, busy_eq_true h]; rfl

theorem hostWriteIf_busy {s : State} (h : s.seq ≠ .idle) (ok : Bool) (write : State → State) :
    s.hostWriteIf ok write = s.turnAway .busy := by
  rw [State.hostWriteIf, busy_eq_true h]; rfl

theorem call_busy {s : State} (h : s.seq ≠ .idle) (load : State → State) (op : TxOp) :
    s.call load op = s.turnAway .busy := by
  rw [State.call, busy_eq_true h]; rfl

/-- A pure function, a getter or a status read is answered in every state (log entry 9). -/
theorem exec_read {i : Instr} (h : i.isRead = true) (s : State) : ∃ r, exec i s = .next (s.answer r) := by
  have hanswer (ok : Bool) (r : Reply) : ∃ r', Host.Outcome.next (s.answerIf ok r) = (.next (s.answer r') : Result) := by
    cases ok
    · exact ⟨.refused .range, rfl⟩
    · exact ⟨r, rfl⟩
  cases i with
  | get16 | get32 | getflag | presetAddr | presetDec => exact hanswer _ _
  | crc16 | getSetVolt | presetEnc | getstatus | getresult | getpr => exact ⟨_, rfl⟩
  | _ => exact absurd h Bool.false_ne_true

/-- Every other host command is turned away while one runs (42_transaction.md R96, 44_config_ops.md R146). -/
theorem exec_busy {i : Instr} (hread : i.isRead = false) (hresponse : i.isResponse = false) {s : State}
    (h : s.seq ≠ .idle) : exec i s = .next (s.turnAway .busy) := by
  cases i with
  | rdreg | wrreg | wrmul | refresh | presetRd | presetWr | setVolt => exact congrArg _ (call_busy h _ _)
  | setDevaddr | setTRead | setTWrite | setTSettle | setpr => exact congrArg _ (hostWrite_busy h _)
  | setx | setdata => exact congrArg _ (hostWriteIf_busy h _ _)
  | rspR | rspW1 | rspWn | rspX => exact absurd hresponse.symm Bool.false_ne_true
  | _ => exact absurd hread.symm Bool.false_ne_true

/-- Settles O53: a read is answered, everything else turned away. -/
theorem hostCannotDisturbARunningCommand : Obligations.HostCannotDisturbARunningCommand := by
  intro s i hs hresponse
  cases hread : i.isRead with
  | true =>
    obtain ⟨r, hr⟩ := exec_read hread s
    exact ⟨r, hr, fun h => absurd h.symm Bool.false_ne_true⟩
  | false => exact ⟨.refused .busy, exec_busy hread hresponse hs, fun _ => rfl⟩

/-! ### CHECK -/

/-- The arguments on which a command raises InvalidArgument (60_exceptions.md R153). -/
def State.BadArguments (s : State) (op : TxOp) : Prop :=
  match op with
  | .rdreg => s.x1.toNat < 1 ∨ 30 < s.x1.toNat
  | .wrmul => s.x1.toNat < 1 ∨ 14 < s.x1.toNat ∨ s.x3.toNat ≠ 2 * s.x1.toNat
  | .presetRd | .presetWr => 10 ≤ s.x4.toNat
  | .wrreg | .refresh | .setVolt => False

theorem request_eq_none_iff (s : State) (op : TxOp) : s.request op = none ↔ s.BadArguments op := by
  cases op <;> simp only [State.request, State.BadArguments, ite_eq_right_iff, reduceCtorEq, imp_false]
  case rdreg => rw [readCountOk_iff]; omega
  case wrmul => rw [writeCountOk_iff]; omega
  case presetRd => rw [slotOk_iff]; omega
  case presetWr => rw [slotOk_iff]; omega

theorem phaseCheck_invalid {s : State} (h : s.request s.cur.op = none) : phaseCheck s = s.raise .invalidArgument := by
  simp only [phaseCheck, h]

theorem phaseCheck_legal {s : State} {r : Request} (h : s.request s.cur.op = some r) :
    phaseCheck s =
      if s.link.present then { s with cur := { s.cur with kind := s.cur.op.kind }, seq := .build }
      else State.raise { s with cur := { s.cur with kind := s.cur.op.kind } } .transportUnavailable := by
  simp only [phaseCheck, h, request_kind h]

/-- Settles O26: the argument gate is the request's case analysis, and the presence gate comes after it. -/
theorem checkGateTestsArgumentsThenPresence : Obligations.CheckGateTestsArgumentsThenPresence := by
  intro s hseq bad
  have hbad : s.request s.cur.op = none ↔ bad := request_eq_none_iff s s.cur.op
  have hlegal (h : ¬ bad) : ∃ r, s.request s.cur.op = some r := Option.ne_none_iff_exists'.1 fun e => h (hbad.1 e)
  rw [seqStep_check hseq]
  refine ⟨fun h => phaseCheck_invalid (hbad.2 h), fun h hp => ?_, fun h hp => ?_⟩
  all_goals
    obtain ⟨r, hr⟩ := hlegal h
    rw [phaseCheck_legal hr, hp]
    rfl

/-! ### TIMEOUT, SEND, RECV -/

/-- Settles O28: the delay follows the latched kind. -/
theorem timeoutPhaseSetsTheReadTimeout : Obligations.TimeoutPhaseSetsTheReadTimeout := by
  intro s hseq
  rw [seqStep_timeout hseq, phaseTimeout]
  refine ⟨fun hk => ?_, fun hk => ?_, fun hk => ?_⟩ <;> rw [hk] <;> rfl

/-- Settles O29: the frame is written, and the count that comes back decides. -/
theorem sendPhaseWritesTheWholeFrameOnce : Obligations.SendPhaseWritesTheWholeFrameOnce := by
  intro s hseq
  rw [seqStep_send hseq]
  by_cases hn : s.link.nextCount = s.cur.txLen.val
  · rw [phaseSend_full hn]
    exact ⟨rfl, fun h => absurd hn h, fun _ => ⟨rfl, rfl⟩, rfl⟩
  · rw [phaseSend_short hn]
    exact ⟨rfl, fun _ => ⟨rfl, rfl, rfl⟩, fun h => absurd h hn, rfl⟩

/-- Settles O30: RECV with the arrivals of the oracle, by the number of bytes received. -/
theorem recvPhaseStoresWhatArrived : Obligations.RecvPhaseStoresWhatArrived := by
  intro s hseq arrived got
  have hlen : got.length = min s.cur.rxLen.val arrived.length := List.length_take
  have heq := recvWith_eq s.link.nextArrivals { s with link := s.link.passArrivals }
  rw [seqStep_recv hseq]
  refine ⟨congrArg (·.link.trace) heq, congrArg (·.link.held) heq, fun a => ?_, fun h => ?_, fun h => ?_, heq.trans ?_⟩
  · refine (State.byteAt_congr .rxbuf a (congrArg (·.rxbuf) heq) (congrArg (·.epoch) heq)).trans ?_
    exact afterRead_byteAt { s with link := s.link.passArrivals } s.link.nextArrivals a
  · have hshort : got.length < s.cur.rxLen.val := by omega
    exact ⟨(congrArg (·.err) heq).trans (if_pos hshort), (congrArg (·.seq) heq).trans (if_pos hshort),
      congrArg (·.excCode) heq⟩
  · have hfull : ¬ got.length < s.cur.rxLen.val := by omega
    exact ⟨(congrArg (·.err) heq).trans (if_neg hfull), (congrArg (·.seq) heq).trans (if_neg hfull)⟩
  · rw [phaseRecv, heq]

/-! ### DELIVER -/

/-- DELIVER writes RESULT_LEN, STATUS.ERR and SEQ, and what the local action publishes (42_transaction.md R107). -/
theorem phaseDeliver_eq (s : State) : phaseDeliver s =
    { s with
      resultLen := payloadLen s.cur.rxLen, err := .ok, seq := .idle
      cache := s.publish.cache, cacheValid := s.publish.cacheValid, pr := s.publish.pr } := by
  rw [phaseDeliver]
  by_cases hrefresh : s.cur.op = .refresh
  · rw [publish_refresh hrefresh]
    generalize s.bytesAt .rxbuf 3 60 = payload
    rfl
  · by_cases hpreset : s.cur.op = .presetRd
    · rw [publish_presetRd hpreset]
    · rw [publish_other hrefresh hpreset]

theorem publish_refresh_cacheValid {s : State} (h : s.cur.op = .refresh) : s.publish.cacheValid = true := by
  rw [publish_refresh h]

theorem publish_presetRd_pr {s : State} (h : s.cur.op = .presetRd) :
    s.publish.pr = presetDec (s.bytesAt .rxbuf 3 28) := by
  rw [publish_presetRd h]

theorem phaseDeliver_byteAt_cache (s : State) (a : Nat) :
    (phaseDeliver s).byteAt .cache a = s.publish.byteAt .cache a :=
  State.byteAt_congr .cache a (by rfl) (by rfl)

/-- Settles O33: DELIVER is its closed form, and the local action by the command. -/
theorem deliverPhasePublishes : Obligations.DeliverPhasePublishes := by
  intro s hseq
  have heq := phaseDeliver_eq s
  rw [seqStep_deliver hseq]
  refine ⟨rfl, rfl, rfl, fun h => ⟨publish_refresh_cacheValid h, fun a => ?_⟩, fun h => (publish_cache h).symm,
    publish_presetRd_pr, publish_pr, heq⟩
  rw [phaseDeliver_byteAt_cache, publish_refresh_byteAt h]

end Sys2Proof.Machine

/-!
Transactions as a whole: what the host can read after one is a function of the operands and the transport's answers
(42_transaction.md R95), and the primitive commands on a good response (R110 to R112, 43_cache_codec.md R132).
-/

namespace Sys2Proof.Machine

/-! ### What a command reports -/

/-- The published payload of the command, when its response is good (42_transaction.md R107). -/
def State.payloadOf (s : State) (op : TxOp) : List Byte :=
  ((s.link.answerTo (s.lenOf op)).drop 2).take (s.lenOf op - 4)

theorem goodResponse_of_verdict {len : Nat} {r : List Byte} (hlen : r.length ≤ len) (h : responseVerdict len r = .ok) :
    goodResponse len r = true := by
  unfold responseVerdict at h
  split at h
  · cases h
  · next hfull =>
    split at h
    · cases h
    · next hexc =>
      split at h
      · next hcrc => simp only [goodResponse, hcrc, Nat.le_antisymm hlen (Nat.not_lt.1 hfull), hexc]; simp
      · cases h

theorem State.Ready.idle {s : State} {f : List Byte} {len : Nat} (h : s.Ready f len) : s.seq = .idle := by
  obtain ⟨hs, -⟩ := h
  exact hs

theorem State.Ready.answer_length {s : State} {f : List Byte} {len : Nat} (h : s.Ready f len) :
    (s.link.answerTo len).length = len := by
  obtain ⟨-, -, -, hgood⟩ := h
  obtain ⟨-, hlen⟩ := responseVerdict_good hgood
  exact hlen

/-- A command that ends OK has had nothing in its way. -/
theorem ready_of_verdict_ok {s : State} {op : TxOp} (hs : s.seq = .idle) (h : s.verdict op = .ok) :
    ∃ r f, s.request op = some r ∧ r.frame s.devaddr = some f ∧ s.Ready f r.responseLen := by
  rcases transact_cases s op with hr | ⟨r, hr, hp⟩ | ⟨r, f, hr, hp, hf, hn⟩ | ⟨r, f, hr, hp, hf, hn⟩
  · rw [verdict_invalid hr] at h; cases h
  · rw [verdict_absent hr hp] at h; cases h
  · rw [verdict_incomplete hr hp hf hn] at h; cases h
  · rw [verdict_answered hr hp hf hn] at h
    exact ⟨r, f, hr, hf, hs, hp, hn, goodResponse_of_verdict (Link.received_length_le ..) h⟩

/-- A command that ends OK (42_transaction.md R107). -/
theorem transact_succeeds {s : State} {op : TxOp} (hs : s.seq = .idle) (h : s.verdict op = .ok) :
    (s.transact op).seq = .idle ∧ (s.transact op).err = .ok ∧ (s.transact op).excCode = 0
      ∧ (s.transact op).resultLen.val = s.lenOf op - 4 ∧ (s.transact op).resultBytes = s.payloadOf op := by
  obtain ⟨r, f, hr, hf, hready⟩ := ready_of_verdict_ok hs h
  have hlen := hready.answer_length
  obtain ⟨hseq, herr, hexc, -, hres, hbytes, -⟩ := transact_done hr hf hready
  rw [hlen] at hres hbytes
  rw [State.payloadOf, lenOf_eq hr]
  exact ⟨hseq, herr, hexc, hres, hbytes⟩

/-- A command that fails (60_exceptions.md R152). -/
theorem transact_fails {s : State} {op : TxOp} (h : s.verdict op ≠ .ok) :
    (s.transact op).seq = .idle ∧ (s.transact op).err = s.verdict op
      ∧ (s.transact op).excCode =
        (if s.verdict op = .deviceException then (s.link.answerTo (s.lenOf op)).getD 2 0#8 else 0#8)
      ∧ (s.transact op).resultLen = 0 := by
  rcases transact_cases s op with hr | ⟨r, hr, hp⟩ | ⟨r, f, hr, hp, hf, hn⟩ | ⟨r, f, hr, hp, hf, hn⟩
  · rw [transact_invalid hr, verdict_invalid hr]; exact ⟨rfl, rfl, rfl, rfl⟩
  · rw [transact_absent hr hp, verdict_absent hr hp]; exact ⟨rfl, rfl, rfl, rfl⟩
  · rw [transact_incomplete hr hp hf hn, verdict_incomplete hr hp hf hn]; exact ⟨rfl, rfl, rfl, rfl⟩
  · rw [verdict_answered hr hp hf hn] at h
    rw [transact_answered hr hp hf hn, verdict_answered hr hp hf hn, lenOf_eq hr]
    rcases responseVerdict_cases r.responseLen (s.link.answerTo r.responseLen) with hv | hv | hv | hv
    · rw [hv]; exact ⟨rfl, rfl, rfl, rfl⟩
    · rw [hv]; exact ⟨rfl, rfl, rfl, rfl⟩
    · rw [hv]; exact ⟨rfl, rfl, rfl, rfl⟩
    · exact absurd hv h

theorem resultBytes_of_resultLen_zero {s : State} (h : s.resultLen = 0) : s.resultBytes = [] := by
  rw [State.resultBytes, h]
  split <;> rfl

/-! ### What a command's report depends on -/

/-- All that may enter the outcome of a command is the same: the operand and control registers, PR, what DATA reads as, and
what the transport will answer (42_transaction.md R95). -/
def SameInputs (s t : State) : Prop :=
  SameOperands s t ∧ SameControl s t ∧ t.pr = s.pr ∧ SameBytes .data s t ∧ t.link.present = s.link.present
    ∧ t.link.nextCount = s.link.nextCount ∧ ∀ len, t.link.answerTo len = s.link.answerTo len

theorem SameBytes.bytesAt {sp : Space} {s t : State} (h : SameBytes sp s t) :
    ∀ n a : Nat, t.bytesAt sp a n = s.bytesAt sp a n
  | 0, _ => rfl
  | n + 1, a => congrArg₂ List.cons (h a) (h.bytesAt n (a + 1))

theorem SameInputs.request {s t : State} (h : SameInputs s t) (op : TxOp) : t.request op = s.request op := by
  obtain ⟨⟨h0, h1, h2, h3, h4⟩, -, hpr, hdata, -⟩ := h
  cases op <;> simp only [State.request, h0, h1, h2, h3, h4, hpr, hdata.bytesAt]

theorem SameInputs.lenOf {s t : State} (h : SameInputs s t) (op : TxOp) : t.lenOf op = s.lenOf op := by
  rw [State.lenOf, State.lenOf, h.request op]

theorem SameInputs.frameOf {s t : State} (h : SameInputs s t) (op : TxOp) : t.frameOf op = s.frameOf op := by
  have hreq := h.request op
  obtain ⟨-, ⟨hdev, -⟩, -⟩ := h
  rw [State.frameOf, State.frameOf, hreq, hdev]

theorem SameInputs.verdict {s t : State} (h : SameInputs s t) (op : TxOp) : t.verdict op = s.verdict op := by
  have hreq := h.request op
  obtain ⟨-, ⟨hdev, -⟩, -, -, hpresent, hcount, hanswer⟩ := h
  simp only [State.verdict, hreq, hdev, hpresent, hcount, hanswer]

theorem SameInputs.traceOf {s t : State} (h : SameInputs s t) (op : TxOp) : t.traceOf op = s.traceOf op := by
  have hverdict := h.verdict op
  have hframe := h.frameOf op
  have hlen := h.lenOf op
  obtain ⟨-, ⟨-, hread, hwrite, hsettle⟩, -, -, -, hcount, hanswer⟩ := h
  have htimeout : t.timeoutOf op = s.timeoutOf op := by
    cases op with
    | rdreg | refresh | presetRd => exact hread
    | wrreg | wrmul | presetWr | setVolt => exact hwrite
  simp only [State.traceOf, hverdict, hframe, hlen, hsettle, hcount, hanswer, htimeout]

theorem SameInputs.payloadOf {s t : State} (h : SameInputs s t) (op : TxOp) : t.payloadOf op = s.payloadOf op := by
  have hlen := h.lenOf op
  obtain ⟨-, -, -, -, -, -, hanswer⟩ := h
  rw [State.payloadOf, State.payloadOf, hlen, hanswer]

/-- What the host reads after the command. -/
theorem SameInputs.report {s t : State} (h : SameInputs s t) (op : TxOp) (hs : s.seq = .idle) (ht : t.seq = .idle) :
    (t.transact op).err = (s.transact op).err ∧ (t.transact op).excCode = (s.transact op).excCode
      ∧ (t.transact op).resultLen = (s.transact op).resultLen
      ∧ (t.transact op).resultBytes = (s.transact op).resultBytes := by
  have hverdict := h.verdict op
  have hlen := h.lenOf op
  by_cases hok : s.verdict op = .ok
  · obtain ⟨-, serr, sexc, slen, sbytes⟩ := transact_succeeds hs hok
    obtain ⟨-, terr, texc, tlen, tbytes⟩ := transact_succeeds ht (hverdict.trans hok)
    exact ⟨terr.trans serr.symm, texc.trans sexc.symm, Fin.ext (by rw [tlen, slen, hlen]),
      by rw [tbytes, sbytes, h.payloadOf op]⟩
  · obtain ⟨-, serr, sexc, slen⟩ := transact_fails hok
    obtain ⟨-, terr, texc, tlen⟩ := transact_fails (hverdict.trans_ne hok)
    obtain ⟨-, -, -, -, -, -, hanswer⟩ := h
    refine ⟨by rw [terr, serr, hverdict], by rw [texc, sexc, hverdict, hlen, hanswer], by rw [tlen, slen], ?_⟩
    rw [resultBytes_of_resultLen_zero slen, resultBytes_of_resultLen_zero tlen]

/-- Settles O38: verdict, payload and trace are each functions of the inputs. -/
theorem outcomeDependsOnOperandsAndTransportOnly : Obligations.OutcomeDependsOnOperandsAndTransportOnly := by
  intro s t op hs ht hx hctl hpr hdata hpresent hcount hanswer
  have hsame : SameInputs s t := ⟨hx, hctl, hpr, hdata, hpresent, hcount, hanswer⟩
  obtain ⟨herr, hexc, hlen, hbytes⟩ := hsame.report op hs ht
  refine ⟨herr, hexc, hlen, hbytes, s.traceOf op, traceIsCutWhereTheCommandEnds s op hs, ?_⟩
  rw [traceIsCutWhereTheCommandEnds t op ht, hsame.traceOf op]

/-! ### Commands with immediate operands on a good response -/

/-- Loading operands first is nothing the transaction's outcome shows. -/
theorem Loads.transact_done {s t : State} {op : TxOp} {r : Request} {f : List Byte} (hload : Loads s t)
    (hr : t.request op = some r) (hf : r.frame s.devaddr = some f) (hready : s.Ready f r.responseLen) :
    TransactionDone s (t.transact op) (s.timeoutOf op) f (s.link.answerTo r.responseLen)
      ∧ (t.transact op).resultLen.val = r.responseLen - 4 := by
  obtain ⟨_, _, _, _, _, _, _, rfl, -⟩ := hload
  have hdone := Machine.transact_done hr hf hready
  obtain ⟨-, -, -, -, hres, -⟩ := id hdone
  exact ⟨hdone, hres.trans (congrArg (· - 4) hready.answer_length)⟩

/-- What a transaction leaves of PR, DATA and the cache when its local action is none (30_encoding.md R74). -/
theorem Loads.transact_keeps {s t : State} {op : TxOp} {r : Request} {f : List Byte} (hload : Loads s t)
    (hr : t.request op = some r) (hf : r.frame s.devaddr = some f) (hready : s.Ready f r.responseLen)
    (hrefresh : op ≠ .refresh) (hpreset : op ≠ .presetRd) :
    (t.transact op).pr = t.pr ∧ (t.transact op).cacheValid = s.cacheValid ∧ SameBytes .cache s (t.transact op)
      ∧ SameBytes .data t (t.transact op) := by
  obtain ⟨_, _, _, _, _, _, _, rfl, -⟩ := hload
  obtain ⟨-, hdata, ⟨-, -, -, hepoch⟩, -⟩ := Machine.transact_keeps _ op
  obtain ⟨hcache, hpr, -⟩ := transact_publishes hr hf hready
  obtain ⟨hcache, hvalid⟩ := hcache hrefresh
  exact ⟨hpr hpreset, hvalid, fun a => State.byteAt_congr .cache a hcache hepoch,
    fun a => State.byteAt_congr .data a hdata hepoch⟩

theorem exec_call_idle {s : State} (hs : s.seq = .idle) (load : State → State) (op : TxOp) :
    (.next (s.call load op) : Result) = .next ((load s).transact op) :=
  congrArg Host.Outcome.next (call_idle hs load op)

theorem setX_byteAt (s : State) (i : Nat) (v : Word) (sp : Space) (a : Nat) :
    (s.setX i v).byteAt sp a = s.byteAt sp a :=
  State.byteAt_congr sp a (by cases sp <;> simp) (by simp)

/-- Settles O40: start and count loaded, then a read of the argument's count. -/
theorem rdregReadsRegisters : Obligations.RdregReadsRegisters := by
  intro s start count f len hlow hhigh hready
  have hcount : readCountOk count = true := (readCountOk_iff count).2 ⟨hlow, hhigh⟩
  have hload : Loads s ((s.setX 0 start).setX 1 count) := (Loads.setX s 0 start).trans (Loads.setX _ 1 count)
  have hr : ((s.setX 0 start).setX 1 count).request .rdreg = some (.read start count) := if_pos hcount
  have hf : (Request.read start count).frame s.devaddr = some f := buildRead_eq s.devaddr start hcount
  obtain ⟨hdone, hlen⟩ := hload.transact_done hr hf hready
  obtain ⟨⟨h0, h1, h2, h3, h4⟩, -⟩ := transact_keeps ((s.setX 0 start).setX 1 count) .rdreg
  obtain ⟨hpr, hvalid, hcache, hdata⟩ := hload.transact_keeps hr hf hready (by decide) (by decide)
  have hlen' : len - 4 = 1 + 2 * count.toNat := by omega
  exact ⟨_, exec_call_idle hready.idle _ _, hdone, hlen.trans hlen', h0, h1, h2, h3, h4, hpr, hvalid, hcache,
    fun a => (hdata a).trans (by rw [setX_byteAt, setX_byteAt])⟩

/-- Settles O41: both commands write one register, SET_VOLT register 0. -/
theorem wrregAndSetVoltWriteOneRegister : Obligations.WrregAndSetVoltWriteOneRegister := by
  intro s reg value f g
  refine ⟨fun hready => ?_, fun hready => ?_⟩
  · have hload : Loads s ((s.setX 0 reg).setX 2 value) := (Loads.setX s 0 reg).trans (Loads.setX _ 2 value)
    have hr : ((s.setX 0 reg).setX 2 value).request .wrreg = some (.write1 reg value) := rfl
    obtain ⟨hdone, hlen⟩ := hload.transact_done hr rfl hready
    obtain ⟨⟨h0, h1, h2, h3, h4⟩, -⟩ := transact_keeps ((s.setX 0 reg).setX 2 value) .wrreg
    obtain ⟨hpr, hvalid, hcache, hdata⟩ := hload.transact_keeps hr rfl hready (by decide) (by decide)
    exact ⟨_, exec_call_idle hready.idle _ _, hdone, hlen, h0, h1, h2, h3, h4, hpr, hvalid, hcache,
      fun a => (hdata a).trans (by rw [setX_byteAt, setX_byteAt])⟩
  · have hload : Loads s (s.setX 2 value) := Loads.setX s 2 value
    have hr : (s.setX 2 value).request .setVolt = some (.write1 Config.vsetReg value) := rfl
    obtain ⟨hdone, hlen⟩ := hload.transact_done hr rfl hready
    obtain ⟨⟨h0, h1, h2, h3, h4⟩, -⟩ := transact_keeps (s.setX 2 value) .setVolt
    obtain ⟨hpr, hvalid, hcache, hdata⟩ := hload.transact_keeps hr rfl hready (by decide) (by decide)
    exact ⟨_, exec_call_idle hready.idle _ _, hdone, hlen, h0, h1, h2, h3, h4, hpr, hvalid, hcache,
      fun a => (hdata a).trans (by rw [setX_byteAt])⟩

/-! ### WRMUL -/

/-- The state in which WRMUL issues its command: operands and data loaded. -/
def State.wrmulLoaded (s : State) (start count : Word) (n : Byte) (bs : List Byte) : State :=
  (((s.setX 0 start).setX 1 count).setX 3 (n.setWidth 16)).loadData bs

theorem wrmulLoaded_loads (s : State) (start count : Word) (n : Byte) (bs : List Byte) :
    Loads s (s.wrmulLoaded start count n bs) :=
  (((Loads.setX s 0 start).trans (Loads.setX _ 1 count)).trans (Loads.setX _ 3 _)).trans (Loads.loadData _ bs)

@[simp] theorem wrmulLoaded_x3 (s : State) (start count : Word) (n : Byte) (bs : List Byte) :
    (s.wrmulLoaded start count n bs).x3 = n := by
  simp [State.wrmulLoaded]

/-- The data stand in DATA from byte 0 on, as far as DATA reaches (42_transaction.md R112). -/
theorem wrmulLoaded_byteAt (s : State) (start count : Word) (n : Byte) {bs : List Byte}
    (h : bs.length ≤ Config.spaceSize .data) (a : Nat) :
    (s.wrmulLoaded start count n bs).byteAt .data a = if a < bs.length then bs.getD a 0#8 else s.byteAt .data a := by
  rw [State.wrmulLoaded, State.loadData, List.take_of_length_le h, State.byteAt_store]
  simp [setX_byteAt]

theorem wrmulLoaded_request (s : State) {start count : Word} {n : Byte} {bs : List Byte}
    (hok : writeCountOk count n = true) (hlen : bs.length = n.toNat) (h : bs.length ≤ Config.spaceSize .data) :
    (s.wrmulLoaded start count n bs).request .wrmul = some (.writeN start count n bs) := by
  have hdata : (s.wrmulLoaded start count n bs).bytesAt .data 0 n.toNat = bs := by
    rw [← hlen, State.wrmulLoaded, State.loadData, List.take_of_length_le h, State.bytesAt_store_all]
  simp only [State.request, wrmulLoaded_x3, hdata]
  exact if_pos hok

/-- Settles O42: operands and data loaded, then a write of what DATA holds. -/
theorem wrmulWritesRegisters : Obligations.WrmulWritesRegisters := by
  intro s start count n bs f hlow hhigh hn hbs hready
  have hok : writeCountOk count n = true := (writeCountOk_iff count n).2 ⟨⟨hlow, hhigh⟩, hn⟩
  have hfit : bs.length ≤ Config.spaceSize .data := by show bs.length ≤ 28; omega
  have hload := wrmulLoaded_loads s start count n bs
  have hr := wrmulLoaded_request s (start := start) hok hbs hfit
  have hf : (Request.writeN start count n bs).frame s.devaddr = some f := buildWriteN_eq s.devaddr start hok bs
  obtain ⟨hdone, hlen⟩ := hload.transact_done hr hf hready
  obtain ⟨⟨h0, h1, h2, h3, h4⟩, -⟩ := transact_keeps (s.wrmulLoaded start count n bs) .wrmul
  obtain ⟨hpr, hvalid, hcache, hdata⟩ := hload.transact_keeps hr hf hready (by decide) (by decide)
  exact ⟨_, exec_call_idle hready.idle _ _, hdone, hlen, h0, h1, h2, h3.trans (wrmulLoaded_x3 ..), h4, hpr, hvalid, hcache,
    fun a => (hdata a).trans (wrmulLoaded_byteAt s start count n hfit a)⟩

end Sys2Proof.Machine

/-!
Responses to a waiting command (30_encoding.md R64 to R67, 42_transaction.md R104 to R107; log entry 6): what each makes of
the command, and that each is its bytes arriving and four steps of the sequencer.
-/

namespace Sys2Proof.Machine

/-! ### A frame that arrives during RECV -/

theorem respond_of_recv {s : State} (hs : s.seq = .recv) (frame : List Byte) :
    s.respond frame = runPhases 3 (recvWith frame s) := by
  rw [State.respond, if_pos hs]

theorem received_of_none_held {l : Link} (h : l.held = []) (len : Nat) (frame : List Byte) :
    l.received len frame = frame.take len := by
  rw [Link.received, h, List.nil_append]

theorem respond_short {s : State} (hs : s.seq = .recv) {frame : List Byte}
    (h : (s.link.received s.cur.rxLen.val frame).length < s.cur.rxLen.val) :
    s.respond frame = { s.afterRead frame with err := .transportReadIncomplete, seq := .idle } := by
  rw [respond_of_recv hs, recvWith_short h, runPhases_idle rfl]

theorem respond_exception {s : State} (hs : s.seq = .recv) {frame : List Byte} (hl : 3 ≤ s.cur.rxLen.val)
    (h : responseVerdict s.cur.rxLen.val (s.link.received s.cur.rxLen.val frame) = .deviceException) :
    s.respond frame = { s.afterRead frame with
      err := .deviceException, excCode := (s.link.received s.cur.rxLen.val frame).getD 2 0#8, seq := .idle } := by
  rw [respond_of_recv hs, run_response s frame hl, h]

theorem respond_good {s : State} (hs : s.seq = .recv) {frame : List Byte} (hl : 3 ≤ s.cur.rxLen.val)
    (h : responseVerdict s.cur.rxLen.val (s.link.received s.cur.rxLen.val frame) = .ok) :
    s.respond frame = phaseDeliver { s.afterRead frame with seq := .deliver } := by
  rw [respond_of_recv hs, run_response s frame hl, h]

/-! ### A good response -/

/-- The command that waited in `s` has ended OK in `t` with the response `frame`: the bytes stand in RXBUF, the payload is
published, and its exception code, its context and TXBUF are as they were (42_transaction.md R107). -/
def Acknowledged (s t : State) (frame : List Byte) : Prop :=
  t.seq = .idle ∧ t.err = .ok ∧ t.resultLen.val = frame.length - 4
    ∧ t.resultBytes = (frame.drop 2).take (frame.length - 4)
    ∧ t.excCode = s.excCode ∧ t.cur = s.cur ∧ SameBytes .txbuf s t
    ∧ ∀ a, t.byteAt .rxbuf a = if a < frame.length then frame.getD a 0#8 else s.byteAt .rxbuf a

/-- The local action of the command that waited in `s` has been performed in `t`: REFRESH alone has written the cache and
PRESET_RD alone PR, from RXBUF (42_transaction.md R107). -/
def Published (s t : State) : Prop :=
  (s.cur.op = .refresh → t.cacheValid = true
      ∧ ∀ a, t.byteAt .cache a = if a < 60 then t.byteAt .rxbuf (3 + a) else s.byteAt .cache a)
    ∧ (s.cur.op ≠ .refresh → t.cacheValid = s.cacheValid ∧ SameBytes .cache s t)
    ∧ (s.cur.op = .presetRd → t.pr = presetDec (t.bytesAt .rxbuf 3 28))
    ∧ (s.cur.op ≠ .presetRd → t.pr = s.pr)

section
variable {s : State} {frame : List Byte}

/-- A good response that comes alone is all that is received. -/
theorem received_alone (hheld : s.link.held = []) (hlen : s.cur.rxLen.val = frame.length) :
    s.link.received s.cur.rxLen.val frame = frame := by
  rw [received_of_none_held hheld, hlen, List.take_length]

variable (hs : s.seq = .recv) (hheld : s.link.held = []) (hlen : s.cur.rxLen.val = frame.length)
  (hthree : 3 ≤ frame.length) (hgood : goodResponse frame.length frame = true)
include hs hheld hlen hthree hgood

theorem respond_alone :
    s.respond frame = phaseDeliver { s.afterRead frame with seq := .deliver } := by
  obtain ⟨hverdict, -⟩ := responseVerdict_good hgood
  exact respond_good hs (by omega) (by rw [received_alone hheld hlen, hlen]; exact hverdict)

theorem respond_acknowledged : Acknowledged s (s.respond frame) frame := by
  have heq := (respond_alone hs hheld hlen hthree hgood).trans (phaseDeliver_eq _)
  have hreceived := received_alone hheld hlen
  have hresult : (s.respond frame).resultLen.val = frame.length - 4 := by rw [heq, ← hlen]; rfl
  refine ⟨by rw [heq], by rw [heq], hresult, ?_, by rw [heq]; rfl, by rw [heq]; rfl, fun a => ?_, fun a => ?_⟩
  · have hopen : (s.respond frame).resultOpen = true := by rw [heq]; rfl
    rw [State.resultBytes, if_pos hopen, hresult,
      State.bytesAt_congr (s := s.afterRead frame) .rxbuf (by rw [heq]; rfl) (by rw [heq]),
      afterRead_bytesAt s frame 2 _ (by rw [hreceived]; omega), hreceived]
  · exact State.byteAt_congr .txbuf a (by rw [heq]; rfl) (by rw [heq]; rfl)
  · rw [State.byteAt_congr (s := s.afterRead frame) .rxbuf a (by rw [heq]; rfl) (by rw [heq]), afterRead_byteAt,
      hreceived]

theorem respond_published : Published s (s.respond frame) := by
  have hdeliver := (respond_alone hs hheld hlen hthree hgood).trans (seqStep_deliver rfl).symm
  obtain ⟨-, -, -, hrefresh, hother, hpreset, hkept, heq⟩ :=
    deliverPhasePublishes { s.afterRead frame with seq := .deliver } rfl
  rw [← hdeliver] at hrefresh hother hpreset hkept heq
  have hrx := congrArg State.rxbuf heq
  have hepoch := congrArg State.epoch heq
  refine ⟨fun h => ?_, fun h => ?_, fun h => ?_, hkept⟩
  · obtain ⟨hvalid, hcache⟩ := hrefresh h
    refine ⟨hvalid, fun a => (hcache a).trans ?_⟩
    rw [State.byteAt_congr .rxbuf (3 + a) hrx hepoch]
    rfl
  · obtain ⟨hvalid, hcache⟩ := hother h
    exact ⟨hvalid, fun a => State.byteAt_congr .cache a hcache hepoch⟩
  · rw [hpreset h, State.bytesAt_congr .rxbuf hrx hepoch]
    rfl

end

theorem goodResponse_append {h : List Byte} {crc : Word} (hexc : (h.getD 1 0#8).getLsbD 7 = false) (hlen : 2 ≤ h.length)
    (hcrc : crc = crc16 h) :
    goodResponse (h ++ [lo8 crc, hi8 crc]).length (h ++ [lo8 crc, hi8 crc]) = true := by
  have hmatch : crcMatches (h ++ [lo8 crc, hi8 crc]) = true := (crcMatches_append h _ _).2 (by rw [be16_hi8_lo8, hcrc])
  have hbyte : (h ++ [lo8 crc, hi8 crc]).getD 1 0#8 = h.getD 1 0#8 := by
    rw [List.getD_append _ _ _ _ (by omega)]
  simp only [goodResponse, hmatch, hbyte, hexc, beq_self_eq_true]
  rfl

theorem Acknowledged.bytesAt {s t : State} {frame : List Byte} (h : Acknowledged s t frame) {k n : Nat}
    (hk : k + n ≤ frame.length) : t.bytesAt .rxbuf k n = (frame.drop k).take n := by
  obtain ⟨-, -, -, -, -, -, -, hrx⟩ := h
  apply List.ext_getElem?
  intro i
  rw [State.bytesAt_getElem?, List.getElem?_take, List.getElem?_drop]
  split
  · rw [hrx, if_pos (by omega), List.getD_eq_getElem?_getD, List.getElem?_eq_getElem (by omega)]
    rfl
  · rfl

theorem SeqKeeps.sameData {s t : State} (h : SeqKeeps s t) : SameBytes .data s t := by
  obtain ⟨-, -, -, hepoch⟩ := h.around
  exact fun a => State.byteAt_congr .data a h.data hepoch

/-! ### RSP-R -/

theorem responseR_length (addr : Byte) (func : BitVec 7) (n : Byte) (bs : List Byte) (crc : Word) :
    (responseR addr func n bs crc).length = 5 + bs.length := by
  simp [responseR]; omega

theorem responseR_getD (addr : Byte) (func : BitVec 7) (n : Byte) {bs : List Byte} (crc : Word) {a : Nat}
    (h : a < bs.length) : (responseR addr func n bs crc).getD (3 + a) 0#8 = bs.getD a 0#8 := by
  rw [Nat.add_comm]
  exact List.getD_append bs _ 0#8 a h

/-- Settles O47: a good response, whose register data stand behind its first three bytes. -/
theorem rspRDeliversTheRegisterData : Obligations.RspRDeliversTheRegisterData := by
  intro s addr func n bs crc hs hheld hrx hcrc
  have hlength := responseR_length addr func n bs crc
  have hgood : goodResponse (responseR addr func n bs crc).length (responseR addr func n bs crc) = true :=
    goodResponse_append (responseFunc_bit7 false func) (by simp) hcrc
  have hack := respond_acknowledged hs hheld (hrx.trans hlength.symm) (by omega) hgood
  obtain ⟨hrefresh, hother, hpreset, hkept⟩ :=
    respond_published hs hheld (hrx.trans hlength.symm) (by omega) hgood
  have hkeeps := respond_keeps s (responseR addr func n bs crc)
  obtain ⟨hseq, herr, hres, hbytes, hexc, hcur, htx, hrxbuf⟩ := id hack
  rw [hlength] at hres hbytes hrxbuf
  refine ⟨_, rfl, hseq, herr, by omega, hbytes.trans ?_, fun h => ?_, hother, fun h hb => ?_, hkept, hkeeps.operands,
    hkeeps.sameData, htx, hkeeps.around, hexc, hcur, fun a ha => ?_⟩
  · rw [show 5 + bs.length - 4 = bs.length + 1 by omega]
    exact congrArg (n :: ·) (List.take_left (l₁ := bs))
  · obtain ⟨hvalid, hcache⟩ := hrefresh h
    refine ⟨hvalid, fun hb a ha => ?_, fun a ha => ?_⟩
    · rw [hcache, if_pos ha, hrxbuf, if_pos (by omega), responseR_getD _ _ _ _ (by omega)]
    · rw [hcache, if_neg (by omega)]
  · rw [hpreset h, hack.bytesAt (by omega)]
    exact congrArg presetDec (List.take_append_of_le_length hb)
  · rw [hrxbuf, if_neg (by omega)]

/-! ### RSP-W1 and RSP-WN -/

/-- Settles O48: both rows are one frame, a good response to a command without a local action. -/
theorem rspW1AndRspWnAcknowledgeTheWrite : Obligations.RspW1AndRspWnAcknowledgeTheWrite := by
  intro s addr func a b crc hs hheld hrx hrefresh hpreset hcrc
  have hlen : s.cur.rxLen.val = (responseW addr func a b crc).length := hrx
  have hthree : 3 ≤ (responseW addr func a b crc).length := by show 3 ≤ 8; omega
  have hgood : goodResponse (responseW addr func a b crc).length (responseW addr func a b crc) = true :=
    goodResponse_append (h := [addr, responseFunc false func, hi8 a, lo8 a, hi8 b, lo8 b])
      (responseFunc_bit7 false func) (by simp) hcrc
  obtain ⟨hseq, herr, hres, hbytes, hexc, hcur, htx, hrxbuf⟩ := respond_acknowledged hs hheld hlen hthree hgood
  obtain ⟨-, hother, -, hkept⟩ := respond_published hs hheld hlen hthree hgood
  obtain ⟨hvalid, hcache⟩ := hother hrefresh
  have hkeeps := respond_keeps s (responseW addr func a b crc)
  exact ⟨_, rfl, rfl, hseq, herr, hres, hbytes, hvalid, hcache, hkept hpreset, hkeeps.operands, hkeeps.sameData, htx,
    hkeeps.around, hexc, hcur, fun c hc => (hrxbuf c).trans (if_neg (Nat.not_lt.2 hc))⟩

/-! ### RSP-X -/

theorem responseX_length (addr : Byte) (func : BitVec 7) (e : Byte) (crc : Word) (tail : List Byte) :
    (responseX addr func e crc tail).length = 5 + tail.length :=
  List.length_append

/-- What an exception response makes of the command: full length or short, what was received stands in RXBUF and only the
status tells which (60_exceptions.md R156, R157). -/
theorem respond_responseX {s : State} (hs : s.seq = .recv) (hheld : s.link.held = []) (hl : 3 ≤ s.cur.rxLen.val)
    (addr : Byte) (func : BitVec 7) (e : Byte) (crc : Word) (tail : List Byte) :
    ∃ err exc, s.respond (responseX addr func e crc tail)
        = { s.afterRead (responseX addr func e crc tail) with err := err, excCode := exc, seq := .idle }
      ∧ (s.cur.rxLen.val ≤ 5 + tail.length → err = .deviceException ∧ exc = e)
      ∧ (5 + tail.length < s.cur.rxLen.val → err = .transportReadIncomplete ∧ exc = s.excCode) := by
  have hreceived := received_of_none_held hheld s.cur.rxLen.val (responseX addr func e crc tail)
  have hlen : (s.link.received s.cur.rxLen.val (responseX addr func e crc tail)).length
      = min s.cur.rxLen.val (5 + tail.length) := by
    rw [hreceived, List.length_take, responseX_length]
  by_cases hfull : s.cur.rxLen.val ≤ 5 + tail.length
  · obtain ⟨k, hk⟩ : ∃ k, s.cur.rxLen.val = k + 3 := ⟨s.cur.rxLen.val - 3, by omega⟩
    have hbyte : (s.link.received s.cur.rxLen.val (responseX addr func e crc tail)).getD 1 0#8
        = responseFunc true func := by rw [hreceived, hk]; rfl
    have hcode : (s.link.received s.cur.rxLen.val (responseX addr func e crc tail)).getD 2 0#8 = e := by
      rw [hreceived, hk]; rfl
    have hverdict : responseVerdict s.cur.rxLen.val
        (s.link.received s.cur.rxLen.val (responseX addr func e crc tail)) = .deviceException := by
      rw [responseVerdict, if_neg (by omega), hbyte, responseFunc_bit7]; rfl
    have heq := respond_exception hs hl hverdict
    rw [hcode] at heq
    exact ⟨_, _, heq, fun _ => ⟨rfl, rfl⟩, fun h => absurd hfull (by omega)⟩
  · exact ⟨_, _, respond_short hs (by omega), fun h => absurd h hfull, fun _ => ⟨rfl, rfl⟩⟩

/-- Settles O49: one closed form for both ways to fail. -/
theorem rspXReportsTheDeviceException : Obligations.RspXReportsTheDeviceException := by
  intro s addr func e crc tail hs hheld hrx
  obtain ⟨err, exc, heq, hfull, hshort⟩ := respond_responseX hs hheld (by omega) addr func e crc tail
  have hkeeps := respond_keeps s (responseX addr func e crc tail)
  have hrxbuf (a : Nat) := afterRead_byteAt s (responseX addr func e crc tail) a
  rw [heq] at hkeeps
  refine ⟨_, congrArg Host.Outcome.next heq, rfl, hfull, hshort, rfl, rfl, rfl, rfl, hkeeps.operands, rfl, rfl,
    hkeeps.around, rfl, fun a => (hrxbuf a).trans ?_⟩
  rw [received_of_none_held hheld, List.length_take, responseX_length]
  by_cases ha : a < min s.cur.rxLen.val (5 + tail.length)
  · rw [if_pos ha, if_pos ha, List.getD_eq_getElem?_getD, List.getElem?_take_of_lt (by omega),
      List.getD_eq_getElem?_getD]
  · rw [if_neg ha, if_neg ha]

/-! ### A response row as arrival and phases -/

/-- The state with one more draw of the transport oracle counted (log entry 2). -/
def State.drawn (s : State) : State := { s with link := { s.link with draws := s.link.draws + 1 } }

/-- The phases in which the sequencer asks nothing more of the transport. -/
def Phase.offLink (p : Phase) : Prop := p = .idle ∨ p = .exc ∨ p = .crc ∨ p = .deliver

@[simp] theorem byteAt_drawn (s : State) (sp : Space) (a : Nat) : s.drawn.byteAt sp a = s.byteAt sp a :=
  State.byteAt_congr sp a (by cases sp <;> rfl) (by rfl)

@[simp] theorem bytesAt_drawn (s : State) (sp : Space) (a n : Nat) : s.drawn.bytesAt sp a n = s.bytesAt sp a n :=
  State.bytesAt_congr sp (by cases sp <;> rfl) (by rfl) n a

theorem recvWith_drawn (frame : List Byte) (s : State) : recvWith frame s.drawn = (recvWith frame s).drawn := by
  rw [recvWith_eq, recvWith_eq]
  rfl

theorem phaseExc_drawn (s : State) : phaseExc s.drawn = (phaseExc s).drawn := by
  simp only [phaseExc, byteAt_drawn]
  split <;> rfl

theorem phaseCrc_drawn (s : State) : phaseCrc s.drawn = (phaseCrc s).drawn := by
  have hcur : s.drawn.cur = s.cur := rfl
  simp only [phaseCrc, bytesAt_drawn, byteAt_drawn, hcur]
  split <;> rfl

theorem publish_drawn (s : State) : s.drawn.publish = s.publish.drawn := by
  by_cases hrefresh : s.cur.op = .refresh
  · rw [publish_refresh hrefresh, publish_refresh (s := s.drawn) hrefresh, bytesAt_drawn]
    generalize s.bytesAt .rxbuf 3 60 = payload
    rfl
  · by_cases hpreset : s.cur.op = .presetRd
    · rw [publish_presetRd hpreset, publish_presetRd (s := s.drawn) hpreset, bytesAt_drawn]
      generalize s.bytesAt .rxbuf 3 28 = payload
      rfl
    · rw [publish_other hrefresh hpreset, publish_other (s := s.drawn) hrefresh hpreset]

theorem phaseDeliver_drawn (s : State) : phaseDeliver s.drawn = (phaseDeliver s).drawn := by
  rw [phaseDeliver, phaseDeliver, publish_drawn]
  rfl

theorem seqStep_drawn {s : State} (h : s.seq.offLink) : seqStep s.drawn = (seqStep s).drawn := by
  rcases h with hs | hs | hs | hs
  · rw [seqStep_idle hs, seqStep_idle (s := s.drawn) hs]
  · rw [seqStep_exc hs, seqStep_exc (s := s.drawn) hs, phaseExc_drawn]
  · rw [seqStep_crc hs, seqStep_crc (s := s.drawn) hs, phaseCrc_drawn]
  · rw [seqStep_deliver hs, seqStep_deliver (s := s.drawn) hs, phaseDeliver_drawn]

theorem seqStep_offLink {s : State} (h : s.seq.offLink) : (seqStep s).seq.offLink := by
  rcases h with hs | hs | hs | hs
  · rw [seqStep_idle hs]; exact .inl hs
  · rw [seqStep_exc hs]; exact (phaseExc_seq s).elim (fun h => .inr (.inr (.inl h))) .inl
  · rw [seqStep_crc hs]; exact (phaseCrc_seq s).elim (fun h => .inr (.inr (.inr h))) .inl
  · rw [seqStep_deliver hs]; exact .inl rfl

/-- A run of phases is that many steps: an idle sequencer's step changes nothing. -/
theorem iterate_seqStep_eq_runPhases : ∀ (n : Nat) (s : State), seqStep^[n] s = runPhases n s
  | 0, _ => rfl
  | n + 1, s => by
    rw [Function.iterate_succ_apply, iterate_seqStep_eq_runPhases n]
    by_cases hs : s.seq = .idle
    · rw [seqStep_idle hs, runPhases_idle hs, runPhases_idle hs]
    · rw [runPhases_succ hs]

theorem iterate_seqStep_drawn : ∀ (n : Nat) {s : State}, s.seq.offLink → seqStep^[n] s.drawn = (seqStep^[n] s).drawn
  | 0, _, _ => rfl
  | n + 1, s, h => by
    rw [Function.iterate_succ_apply, Function.iterate_succ_apply, seqStep_drawn h,
      iterate_seqStep_drawn n (seqStep_offLink h)]

/-- RECV on bytes the oracle lists is RECV on those bytes, the list as before. -/
theorem seqStep_recv_arrival {s : State} (hs : s.seq = .recv) (frame : List Byte) :
    seqStep { s with link := { s.link with arrivals := frame :: s.link.arrivals } } = (recvWith frame s).drawn := by
  rw [seqStep_recv (by exact hs)]
  exact recvWith_drawn frame s

/-- Settles O51: after RECV no phase asks the transport, so the draw counted there stays the one difference. -/
theorem responseIsArrivalAndFourSteps : Obligations.ResponseIsArrivalAndFourSteps := by
  intro s i pr frame hi hs hf
  have hoff : (recvWith frame s).seq.offLink := (recvWith_seq frame s).elim (fun h => .inr (.inl h)) .inl
  refine ⟨_, (exec_response hi hf s).trans (congrArg _ (respond_of_recv hs frame)), ?_⟩
  rw [seqStep_recv_arrival hs, ← iterate_seqStep_eq_runPhases]
  exact iterate_seqStep_drawn 3 hoff

end Sys2Proof.Machine

/-!
The preset codec (43_cache_codec.md R126 to R133): the block as its words, the flag, and both directions of the round trip.
-/

namespace Sys2Proof

/-! ### The flag -/

/-- The last byte of a block for a flag (R129). -/
def flagByte (flag : Bool) : Byte := if flag then 0x01#8 else 0x00#8

@[simp] theorem flagOf_flagByte (flag : Bool) : flagOf (flagByte flag) = flag := by cases flag <;> rfl

theorem flagOf_iff (b : Byte) : flagOf b = true ↔ b ≠ 0#8 := bne_iff_ne

/-- Only the two bytes PRESET_ENC writes come back as they were (R133). -/
theorem flagByte_flagOf_eq_iff (b : Byte) : flagByte (flagOf b) = b ↔ b = 0x00#8 ∨ b = 0x01#8 := by
  revert b; decide

/-! ### The words of a block -/

@[simp] theorem blockWord_zero_wordBytes_append (w : Word) (b : List Byte) : blockWord (wordBytes w ++ b) 0 = w :=
  be16_hi8_lo8 w

@[simp] theorem blockWord_succ_wordBytes_append (w : Word) (b : List Byte) (k : Nat) :
    blockWord (wordBytes w ++ b) (k + 1) = blockWord b k := rfl

theorem take_append_wordBytes_blockWord {b : List Byte} {k : Nat} (h : 2 * k + 2 ≤ b.length) :
    b.take (2 * k) ++ wordBytes (blockWord b k) = b.take (2 * k + 2) := by
  have hfirst : b.getD (2 * k) 0#8 = b[2 * k] := List.getD_eq_getElem b 0#8 (by omega)
  have hsecond : b.getD (2 * k + 1) 0#8 = b[2 * k + 1] := List.getD_eq_getElem b 0#8 (by omega)
  rw [wordBytes, blockWord, hi8_be16, lo8_be16, hfirst, hsecond, List.append_cons, List.take_append_getElem,
    List.take_append_getElem]

/-- The first words of a block, each high byte first, are its first bytes (R128). -/
theorem flatMap_wordBytes_blockWord (b : List Byte) : ∀ n, 2 * n ≤ b.length →
    (List.range n).flatMap (fun k => wordBytes (blockWord b k)) = b.take (2 * n)
  | 0, _ => by simp
  | n + 1, h => by
    rw [List.range_succ, List.flatMap_append, flatMap_wordBytes_blockWord b n (by omega), List.flatMap_singleton,
      take_append_wordBytes_blockWord (by omega), Nat.mul_succ]

/-! ### The round trip -/

theorem presetDec_presetEnc (r : PresetRecord) : presetDec (presetEnc r) = r := by
  have hflag : (presetEnc r).getD 27 0#8 = flagByte r.init := rfl
  rw [presetDec, hflag, flagOf_flagByte]
  simp only [presetEnc, List.append_assoc, blockWord_zero_wordBytes_append, blockWord_succ_wordBytes_append,
    dword_hi16_lo16]

/-- Encoding a decoded block keeps its thirteen value words and normalises the flag word (R133). -/
theorem presetEnc_presetDec {b : List Byte} (h : b.length = 28) :
    presetEnc (presetDec b) = b.take 26 ++ [0x00#8, flagByte (flagOf (b.getD 27 0#8))] := by
  rw [← flatMap_wordBytes_blockWord b 13 (by omega)]
  simp only [presetEnc, presetDec, lo16_dword, hi16_dword]
  rfl

theorem presetEnc_presetDec_eq_iff {b : List Byte} (h : b.length = 28) :
    presetEnc (presetDec b) = b ↔ b.getD 26 0#8 = 0x00#8 ∧ (b.getD 27 0#8 = 0x00#8 ∨ b.getD 27 0#8 = 0x01#8) := by
  have hsplit : b = b.take 26 ++ [b.getD 26 0#8, b.getD 27 0#8] := by simpa only [h] using split_crc b (by omega)
  calc presetEnc (presetDec b) = b
      ↔ [0x00#8, flagByte (flagOf (b.getD 27 0#8))] = [b.getD 26 0#8, b.getD 27 0#8] := by
        rw [presetEnc_presetDec h]
        conv_lhs => rhs; rw [hsplit]
        exact List.append_right_inj _
    _ ↔ b.getD 26 0#8 = 0x00#8 ∧ flagByte (flagOf (b.getD 27 0#8)) = b.getD 27 0#8 := by
        simp only [List.cons.injEq, and_true, eq_comm (a := 0x00#8)]
    _ ↔ _ := and_congr_right' (flagByte_flagOf_eq_iff _)

/-- Settles O9: the record's words come apart and together again, and so does a block but for its flag word. -/
theorem presetRoundTrip : Obligations.PresetRoundTrip :=
  ⟨presetDec_presetEnc, fun _ => presetEnc_presetDec_eq_iff⟩

end Sys2Proof

/-!
The pure functions and the getters of the value codec (43_cache_codec.md R122 to R129): an operand in range is answered in
every state, one out of range turned away.
-/

namespace Sys2Proof.Machine

/-! ### Answered or turned away -/

theorem answerIf_in_range (s : State) {ok : Bool} (h : ok = true) (r : Reply) : s.answerIf ok r = s.answer r := if_pos h

theorem answerIf_out_of_range (s : State) {ok : Bool} (h : ok = false) (r : Reply) :
    s.answerIf ok r = s.turnAway .range := if_neg (by simp [h])

theorem hostWriteIf_out_of_range {s : State} (hs : s.seq = .idle) {ok : Bool} (h : ok = false) (write : State → State) :
    s.hostWriteIf ok write = s.turnAway .range := by
  rw [hostWriteIf_idle hs, if_neg (by simp [h])]

/-- Settles O17: the range each of the seven tests is that of its well-formedness. -/
theorem outOfRangeOperandsAreTurnedAway : Obligations.OutOfRangeOperandsAreTurnedAway := by
  intro s i hrange hs hform
  cases i with
  | get16 | get32 | getflag | presetAddr | presetDec =>
    exact congrArg Host.Outcome.next (answerIf_out_of_range s hrange _)
  | setx | setdata => exact congrArg Host.Outcome.next (hostWriteIf_out_of_range hs hrange _)
  | _ => exact hform.elim

/-! ### The preset functions -/

/-- Settles O10: the answer is the encoding, which is that block. -/
theorem presetEncWritesTheBlock : Obligations.PresetEncWritesTheBlock := ⟨fun _ _ => rfl, by decide⟩

theorem exec_presetDec {b : List Byte} (h : b.length = 28) (s : State) :
    exec (.presetDec b) s = .next (s.answer (.record (presetDec b))) :=
  congrArg Host.Outcome.next (answerIf_in_range s (beq_iff_eq.2 h) _)

/-- Settles O11: a word of a decoded record is one of the block's, a 32-bit value two of them. -/
theorem presetDecReadsTheBlock : Obligations.PresetDecReadsTheBlock :=
  ⟨fun b s h => ⟨presetDec b, exec_presetDec h s, rfl, rfl, rfl, rfl, rfl, rfl, rfl, rfl, dword_toNat _ _,
    dword_toNat _ _, rfl, flagOf_iff _⟩, by decide⟩

theorem exec_presetAddr {slot : Byte} (h : slot.toNat < 10) (s : State) :
    exec (.presetAddr slot) s = .next (s.answer (.word (presetAddr slot))) :=
  congrArg Host.Outcome.next (answerIf_in_range s ((slotOk_iff slot).2 h) _)

/-- Settles O12: the address does not overflow 16 bits for a slot in range. -/
theorem presetAddrIsBasePlusStride : Obligations.PresetAddrIsBasePlusStride :=
  fun slot s h => ⟨presetAddr slot, exec_presetAddr h s, presetAddr_toNat h⟩

/-! ### The getters -/

theorem exec_get16 (s : State) {i : Nat} (h : i ≤ 30) : exec (.get16 i) s = .next (s.answer (.word (s.cacheWord i))) :=
  congrArg Host.Outcome.next (answerIf_in_range s (decide_eq_true (Nat.lt_succ_of_le h)) _)

theorem exec_get32 (s : State) {i : Nat} (h : i ≤ 29) : exec (.get32 i) s = .next (s.answer (.dword (s.cacheDword i))) :=
  congrArg Host.Outcome.next (answerIf_in_range s (decide_eq_true (Nat.succ_lt_succ (Nat.lt_succ_of_le h))) _)

theorem exec_getflag (s : State) {i : Nat} (h : i ≤ 30) :
    exec (.getflag i) s = .next (s.answer (.flag (s.cacheFlag i))) :=
  congrArg Host.Outcome.next (answerIf_in_range s (decide_eq_true (Nat.lt_succ_of_le h)) _)

/-- The last register of the cache is never written (10_state.md R32). -/
theorem State.Inv.byteAt_cache {s : State} (h : s.Inv) {a : Nat} (ha : 60 ≤ a) :
    s.byteAt .cache a = Config.unwrittenByte s.epoch .cache a := by
  obtain ⟨⟨-, -, -, hcache⟩, -⟩ := h
  rw [State.byteAt, State.space_cache, Memory.read?_none_of_wf hcache ha, Option.getD_none]

/-- Settles O14: GET_SET_VOLT is GET16 0, and register 30 reads as what nothing has written. -/
theorem get16AnswersTheBigEndianWord : Obligations.Get16AnswersTheBigEndianWord := by
  intro s
  refine ⟨fun i => exec_get16 s, rfl, fun hinv => ?_⟩
  rw [exec_get16 s (by omega), State.cacheWord, hinv.byteAt_cache (by omega), hinv.byteAt_cache (by omega)]
  rfl

/-- Settles O15: the register above is the high word. -/
theorem get32CombinesTwoRegisters : Obligations.Get32CombinesTwoRegisters :=
  fun s i h => ⟨s.cacheDword i, exec_get32 s h, dword_toNat _ _⟩

/-- Settles O16: the flag is the test of the low byte. -/
theorem getflagTestsTheLowByte : Obligations.GetflagTestsTheLowByte :=
  fun s i h => ⟨s.cacheFlag i, exec_getflag s h, flagOf_iff _⟩

end Sys2Proof.Machine

/-!
The composite commands REFRESH, PRESET_RD and PRESET_WR on a good response (43_cache_codec.md R120, R130, R131).
-/

namespace Sys2Proof.Machine

/-! ### REFRESH -/

/-- No command writes DATA once it has been issued. -/
theorem transact_sameData (s : State) (op : TxOp) : SameBytes .data s (s.transact op) := by
  obtain ⟨-, hdata, ⟨-, -, -, hepoch⟩, -⟩ := transact_keeps s op
  exact fun a => State.byteAt_congr .data a hdata hepoch

/-- Settles O43: of a read of registers 0 to 29, DELIVER puts the response's register data into the cache. -/
theorem refreshFillsTheCache : Obligations.RefreshFillsTheCache := by
  intro s f ans hready
  have hr : s.request .refresh = some (.read Config.refreshStart Config.refreshCount) := rfl
  have hf : (Request.read Config.refreshStart Config.refreshCount).frame s.devaddr = some f :=
    buildRead_eq s.devaddr _ (by decide)
  obtain ⟨hdone, hlen⟩ := Loads.rfl.transact_done hr hf hready
  obtain ⟨hoperands, -⟩ := transact_keeps s .refresh
  obtain ⟨-, hpr, hcache, -⟩ := transact_publishes hr hf hready
  obtain ⟨hvalid, hbytes⟩ := hcache rfl
  exact ⟨_, exec_call_idle hready.idle _ _, hdone, hlen, hoperands, hpr (by decide), hvalid, transact_sameData s _, hbytes⟩

/-! ### The preset commands -/

/-- The state in which a preset command is issued: x[4] holds the slot. -/
def State.slotLoaded (s : State) (slot : Byte) : State := s.setX 4 (slot.setWidth 16)

theorem slotLoaded_loads (s : State) (slot : Byte) : Loads s (s.slotLoaded slot) := Loads.setX s 4 _

@[simp] theorem slotLoaded_x4 (s : State) (slot : Byte) : (s.slotLoaded slot).x4 = slot := by
  simp [State.slotLoaded]

theorem slotLoaded_byteAt (s : State) (slot : Byte) (sp : Space) (a : Nat) :
    (s.slotLoaded slot).byteAt sp a = s.byteAt sp a := setX_byteAt s 4 _ sp a

theorem slotLoaded_request_presetRd (s : State) {slot : Byte} (h : slot.toNat < 10) :
    (s.slotLoaded slot).request .presetRd = some (.read (presetAddr slot) Config.presetWords) := by
  simpa using request_presetRd (s := s.slotLoaded slot) (by simpa using h)

theorem slotLoaded_request_presetWr (s : State) {slot : Byte} (h : slot.toNat < 10) :
    (s.slotLoaded slot).request .presetWr
      = some (.writeN (presetAddr slot) Config.presetWords Config.presetBytes (presetEnc s.pr)) := by
  have hpr : (s.slotLoaded slot).pr = s.pr := State.setX_pr s 4 _
  simpa [hpr] using request_presetWr (s := s.slotLoaded slot) (by simpa using h)

/-- What a preset command leaves of the operands and of DATA: x[4] holds the slot, all else is as before. -/
theorem slotLoaded_transact_keeps (s : State) (slot : Byte) (op : TxOp) :
    ((s.slotLoaded slot).transact op).x0 = s.x0 ∧ ((s.slotLoaded slot).transact op).x1 = s.x1
      ∧ ((s.slotLoaded slot).transact op).x2 = s.x2 ∧ ((s.slotLoaded slot).transact op).x3 = s.x3
      ∧ ((s.slotLoaded slot).transact op).x4 = slot ∧ SameBytes .data s ((s.slotLoaded slot).transact op) := by
  obtain ⟨⟨h0, h1, h2, h3, h4⟩, -⟩ := transact_keeps (s.slotLoaded slot) op
  exact ⟨h0, h1, h2, h3, h4.trans (slotLoaded_x4 s slot),
    fun a => (transact_sameData _ op a).trans (slotLoaded_byteAt s slot .data a)⟩

/-- Settles O44: a read of the slot's block, whose data DELIVER decodes into PR. -/
theorem presetRdFillsThePresetRecord : Obligations.PresetRdFillsThePresetRecord := by
  intro s slot addr f ans hslot hready
  have hr := slotLoaded_request_presetRd s hslot
  have hf : (Request.read (presetAddr slot) Config.presetWords).frame s.devaddr = some f :=
    buildRead_eq s.devaddr _ (by decide)
  obtain ⟨hdone, hlen⟩ := (slotLoaded_loads s slot).transact_done hr hf hready
  obtain ⟨h0, h1, h2, h3, h4, hdata⟩ := slotLoaded_transact_keeps s slot .presetRd
  obtain ⟨hother, -, -, hpreset⟩ := transact_publishes hr hf hready
  obtain ⟨hcache, hvalid⟩ := hother (by decide)
  obtain ⟨-, -, ⟨-, -, -, hepoch⟩, -⟩ := transact_keeps (s.slotLoaded slot) .presetRd
  exact ⟨_, exec_call_idle hready.idle _ _, hdone, hlen, hpreset rfl, h0, h1, h2, h3, h4, hvalid,
    fun a => State.byteAt_congr .cache a hcache hepoch, hdata⟩

/-- Settles O45: a write of the slot's block from PR, with no local action. -/
theorem presetWrSendsThePresetRecord : Obligations.PresetWrSendsThePresetRecord := by
  intro s slot addr f hslot hready
  have hload := slotLoaded_loads s slot
  have hr := slotLoaded_request_presetWr s hslot
  have hf : (Request.writeN (presetAddr slot) Config.presetWords Config.presetBytes (presetEnc s.pr)).frame s.devaddr
      = some f := buildWriteN_eq s.devaddr _ (by decide) _
  obtain ⟨hdone, hlen⟩ := hload.transact_done hr hf hready
  obtain ⟨h0, h1, h2, h3, h4, hdata⟩ := slotLoaded_transact_keeps s slot .presetWr
  obtain ⟨hpr, hvalid, hcache, -⟩ := hload.transact_keeps hr hf hready (by decide) (by decide)
  exact ⟨_, exec_call_idle hready.idle _ _, hdone, hlen, by simp [f], h0, h1, h2, h3, h4, hpr, hvalid, hcache, hdata⟩

end Sys2Proof.Machine

/-!
Configuration, operand loads and status reads (44_config_ops.md R140 to R145): what a register write does to an idle block,
and what the status reads answer in every state.
-/

namespace Sys2Proof.Machine

/-! ### A register write to an idle block -/

theorem hostWrite_idle {s : State} (hs : s.seq = .idle) (write : State → State) :
    s.hostWrite write = (write s).answer .accepted := by
  rw [State.hostWrite, busy_eq_false hs]; rfl

theorem hostWriteIf_in_range {s : State} (hs : s.seq = .idle) {ok : Bool} (h : ok = true) (write : State → State) :
    s.hostWriteIf ok write = (write s).answer .accepted := by
  rw [hostWriteIf_idle hs, if_pos h]

theorem exec_setdata {s : State} (hs : s.seq = .idle) {k : Nat} (hk : k ≤ 27) (b : Byte) :
    exec (.setdata k b) s = .next ((s.store .data k [b]).answer .accepted) :=
  congrArg Host.Outcome.next (hostWriteIf_in_range hs (decide_eq_true (Nat.lt_succ_of_le hk)) _)

theorem exec_setx {s : State} (hs : s.seq = .idle) {i : Nat} (hi : i < 5) (v : Word) :
    exec (.setx i v) s = .next ((s.setX i v).answer .accepted) :=
  congrArg Host.Outcome.next (hostWriteIf_in_range hs (decide_eq_true hi) _)

theorem exec_setpr {s : State} (hs : s.seq = .idle) (field : PrField) (v : DWord) :
    exec (.setpr field v) s = .next { s with pr := s.pr.setField field v, reply := .accepted } :=
  congrArg Host.Outcome.next (hostWrite_idle hs _)

/-! ### DATA -/

theorem byteAt_store_one (s : State) (sp q : Space) (a : Nat) (b : Byte) (c : Nat) :
    (s.store sp a [b]).byteAt q c = if q = sp ∧ c = a then b else s.byteAt q c := by
  have hwindow : (a ≤ c ∧ c < a + [b].length) ↔ c = a := by rw [List.length_singleton]; omega
  rw [State.byteAt_store]
  simp only [hwindow]
  split
  · next h => rw [h.2, Nat.sub_self]; rfl
  · rfl

/-- Settles O21: one byte is stored in DATA, and a store changes no field but its memory. -/
theorem setdataWritesOneByte : Obligations.SetdataWritesOneByte :=
  fun s k b hs hk => ⟨_, exec_setdata hs hk b, fun sp a => byteAt_store_one s .data sp k b a, rfl⟩

/-! ### The registers -/

theorem lo8_eq_setWidth (v : Word) : lo8 v = v.setWidth 8 := (BitVec.setWidth_eq_extractLsb' (by decide)).symm

theorem lo16_eq_setWidth (v : DWord) : lo16 v = v.setWidth 16 := (BitVec.setWidth_eq_extractLsb' (by decide)).symm

/-- Settles O18: a register write to an idle block. -/
theorem setDevaddrWritesTheAddress : Obligations.SetDevaddrWritesTheAddress :=
  fun _ _ hs => congrArg Host.Outcome.next (hostWrite_idle hs _)

/-- Settles O20: of the five, x[3] and x[4] keep the low byte. -/
theorem setxWritesOneOperandRegister : Obligations.SetxWritesOneOperandRegister := by
  intro s v hs
  rw [lo8_eq_setWidth]
  have hregister (i : Nat) (hi : i < 5) := exec_setx hs hi v
  exact ⟨hregister 0 (by decide), hregister 1 (by decide), hregister 2 (by decide), hregister 3 (by decide),
    hregister 4 (by decide)⟩

/-- Settles O22: `setField` writes the named field at its width. -/
theorem setprWritesOneField : Obligations.SetprWritesOneField := by
  intro s v hs
  rw [lo16_eq_setWidth]
  have hfield (f : PrField) := exec_setpr hs f v
  exact ⟨hfield .vset, hfield .iset, hfield .lvp, hfield .ovp, hfield .ocp, hfield .opp, hfield .oth, hfield .otm,
    hfield .oac, hfield .oae, hfield .otp, hfield .init⟩

/-! ### The delays -/

theorem seqStep_timeout_trace {s : State} (h : s.seq = .timeout) : (seqStep s).link.trace
    = s.link.trace ++ [.setReadTimeout (if s.cur.kind = .read then s.tReadMs else s.tWriteMs)] := by
  rw [seqStep_timeout h]; rfl

theorem seqStep_settle_trace {s : State} (h : s.seq = .settle) :
    (seqStep s).link.trace = s.link.trace ++ [.delay s.tSettleMs] := by
  rw [seqStep_settle h]; rfl

/-- Settles O19: each delay is a register write, and TIMEOUT and SETTLE put the register's value on the trace. -/
theorem delayCommandsSetWhatTransactionsUse : Obligations.DelayCommandsSetWhatTransactionsUse := by
  intro s ms hs
  have htaken (write : State → State) :
      (.next (s.hostWrite write) : Result) = .next ((write s).answer .accepted) := by rw [hostWrite_idle hs]
  refine ⟨htaken _, htaken _, htaken _, fun t hseq hkind hms => ?_, fun t hseq hkind hms => ?_, fun t hseq hms => ?_⟩
  · rw [seqStep_timeout_trace hseq, if_pos hkind, hms]
  · rw [seqStep_timeout_trace hseq, if_neg hkind, hms]
  · rw [seqStep_settle_trace hseq, hms]

/-! ### The status reads -/

theorem busy_iff (s : State) : s.busy = true ↔ s.seq ≠ .idle := bne_iff_ne

/-- The status word bit by bit, from its four fields (10_state.md R27). -/
theorem statusWord_getLsbD (s : State) (i : Nat) : s.statusWord.getLsbD i =
    if i < 1 then (BitVec.ofBool s.busy).getLsbD i
    else if i - 1 < 3 then s.err.bits.getLsbD (i - 1)
    else if i - 1 - 3 < 1 then (BitVec.ofBool s.cacheValid).getLsbD (i - 1 - 3)
    else (BitVec.ofBool s.link.present).getLsbD (i - 1 - 3 - 1) := by
  simp only [State.statusWord, BitVec.getLsbD_append]

theorem statusWord_busy (s : State) : s.statusWord.getLsbD 0 = s.busy := by
  rw [statusWord_getLsbD]; simp

theorem statusWord_err (s : State) : s.statusWord.extractLsb' 1 3 = s.err.bits := by
  apply BitVec.eq_of_getLsbD_eq
  intro i hi
  rw [BitVec.getLsbD_extractLsb', statusWord_getLsbD]
  simp [hi]

theorem statusWord_cacheValid (s : State) : s.statusWord.getLsbD 4 = s.cacheValid := by
  rw [statusWord_getLsbD]; simp

theorem statusWord_present (s : State) : s.statusWord.getLsbD 5 = s.link.present := by
  rw [statusWord_getLsbD]; simp

theorem resultBytes_length (s : State) : s.resultBytes.length = s.resultLen.val := by
  unfold State.resultBytes
  split
  · exact State.bytesAt_length s .rxbuf _ 2
  · rw [List.length_map, List.length_range]

/-- The result window is open when no command runs and the last one succeeded (10_state.md R31). -/
theorem resultBytes_of_open {s : State} (hs : s.seq = .idle) (herr : s.err = .ok) :
    s.resultBytes = s.bytesAt .rxbuf 2 s.resultLen.val := by
  have hopen : s.resultOpen = true := by rw [State.resultOpen, busy_eq_false hs, herr]; rfl
  rw [State.resultBytes, if_pos hopen]

/-- Settles O23: the fields of the status word, the bytes of the result, and PR. -/
theorem statusReadsAnswerAtAnyTime : Obligations.StatusReadsAnswerAtAnyTime := by
  intro s
  refine ⟨⟨s.statusWord, rfl, ?_, statusWord_err s, statusWord_cacheValid s, statusWord_present s⟩,
    ⟨s.resultBytes, rfl, resultBytes_length s, fun hs herr i hi => ?_⟩, rfl⟩
  · rw [statusWord_busy, busy_iff]
  · rw [resultBytes_of_open hs herr, State.bytesAt_getD s .rxbuf 2 hi]

end Sys2Proof.Machine

/-!
How a command ends (60_exceptions.md): what `raise` writes, the exception gate, the one outcome a command reports, and what a
command leaves of the block's local state.
-/

namespace Sys2Proof.Machine

/-! ### A failed gate -/

/-- Settles O24: of the six errors a device exception alone carries a code. -/
theorem raiseWritesOnlyTheOutcome : Obligations.RaiseWritesOnlyTheOutcome := by
  intro s e
  cases e with
  | deviceException code => rfl
  | invalidArgument | transportUnavailable | transportWriteIncomplete | transportReadIncomplete | checksumMismatch => rfl

/-- Settles O31: phase EXC, both ways out. -/
theorem excPhaseTestsBitSevenOnly : Obligations.ExcPhaseTestsBitSevenOnly := by
  intro s hs
  rw [seqStep_exc hs]
  refine ⟨fun hset => ?_, fun hclear => phaseExc_clear hclear⟩
  rw [phaseExc_set hset]
  rfl

/-! ### The outcome of a command -/

/-- Settles O35: the verdict is OK with nothing in the command's way, or names the gate that failed. -/
theorem outcomeIsTheFirstFailedGate : Obligations.OutcomeIsTheFirstFailedGate := by
  intro s op hs
  by_cases hok : s.verdict op = .ok
  · obtain ⟨hseq, herr, hexc, hlen, -⟩ := transact_succeeds hs hok
    rw [if_pos hok, if_neg (by rw [hok]; decide)]
    exact ⟨hseq, herr.trans hok.symm, hexc, hlen⟩
  · obtain ⟨hseq, herr, hexc, hlen⟩ := transact_fails hok
    rw [if_neg hok]
    exact ⟨hseq, herr, hexc, congrArg Fin.val hlen⟩

/-! ### What a command leaves of the cache and the preset record -/

/-- A command that fails ends before DELIVER, the phase of the local action (60_exceptions.md R152). -/
theorem transact_fails_keeps {s : State} {op : TxOp} (h : s.verdict op ≠ .ok) :
    (s.transact op).cache = s.cache ∧ (s.transact op).cacheValid = s.cacheValid ∧ (s.transact op).pr = s.pr := by
  rcases transact_cases s op with hr | ⟨r, hr, hp⟩ | ⟨r, f, hr, hp, hf, hn⟩ | ⟨r, f, hr, hp, hf, hn⟩
  · rw [transact_invalid hr]; exact ⟨rfl, rfl, rfl⟩
  · rw [transact_absent hr hp]; exact ⟨rfl, rfl, rfl⟩
  · rw [transact_incomplete hr hp hf hn]; exact ⟨rfl, rfl, rfl⟩
  · rw [verdict_answered hr hp hf hn] at h
    rw [transact_answered hr hp hf hn]
    rcases responseVerdict_cases r.responseLen (s.link.answerTo r.responseLen) with hv | hv | hv | hv
    · rw [hv]; exact ⟨rfl, rfl, rfl⟩
    · rw [hv]; exact ⟨rfl, rfl, rfl⟩
    · rw [hv]; exact ⟨rfl, rfl, rfl⟩
    · exact absurd hv h

/-- Whatever the outcome, only a REFRESH writes the cache and only a PRESET_RD the preset record (42_transaction.md R107). -/
theorem transact_keeps_cache_pr {s : State} (hs : s.seq = .idle) (op : TxOp) :
    (s.verdict op ≠ .ok ∨ op ≠ .refresh →
        (s.transact op).cache = s.cache ∧ (s.transact op).cacheValid = s.cacheValid)
      ∧ (s.verdict op ≠ .ok ∨ op ≠ .presetRd → (s.transact op).pr = s.pr) := by
  by_cases hok : s.verdict op = .ok
  · obtain ⟨r, f, hr, hf, hready⟩ := ready_of_verdict_ok hs hok
    obtain ⟨hcache, hpr, -⟩ := transact_publishes hr hf hready
    exact ⟨fun h => hcache (h.resolve_left (absurd hok)), fun h => hpr (h.resolve_left (absurd hok))⟩
  · obtain ⟨hcache, hvalid, hpr⟩ := transact_fails_keeps hok
    exact ⟨fun _ => ⟨hcache, hvalid⟩, fun _ => hpr⟩

/-- Settles O37: no phase touches operands, DATA and control registers, and the local action is a success's. -/
theorem failureLeavesLocalStateAlone : Obligations.FailureLeavesLocalStateAlone := by
  intro s op hs
  obtain ⟨hoperands, -, haround, -⟩ := transact_keeps s op
  exact ⟨hoperands, transact_sameData s op, haround, transact_keeps_cache_pr hs op⟩

end Sys2Proof.Machine

/-!
What outlives a command and what a reset (70_reset_and_hazards.md): the bytes the transport still holds after a read (R180),
and the block after the reset event (R170).
-/

namespace Sys2Proof.Machine

/-! ### Bytes beyond the expected length -/

/-- A read leaves in the transport what came beyond the length asked for (60_exceptions.md R163). -/
@[simp] theorem Link.readExactly_held (l : Link) (len : Nat) (arrived : List Byte) :
    (l.readExactly len arrived).held = (l.held ++ arrived).drop len := rfl

/-- No operation before the read touches the bytes held (10_state.md R34). -/
@[simp] theorem waiting_held (s : State) (op : TxOp) (r : Request) (f : List Byte) :
    (s.waiting op r f).link.held = s.link.held := rfl

theorem answered_held {s : State} {op : TxOp} {r : Request} {f : List Byte} (h : s.request op = some r)
    (hf : r.frame s.devaddr = some f) :
    (s.answered op r f).link.held = (s.link.held ++ (s.link.write []).nextArrivals).drop r.responseLen := by
  rw [State.answered, State.afterRead, Link.readExactly_held, waiting_held, waiting_rxLen h hf]

/-- The next read's answer begins with the bytes held, as far as its length reaches. -/
theorem Link.answerTo_take_held (l : Link) (len : Nat) :
    (l.answerTo len).take l.held.length = l.held.take len := by
  change ((l.held ++ (l.write []).nextArrivals).take len).take l.held.length = _
  rw [List.take_take, Nat.min_comm, ← List.take_take, List.take_left]

/-- A command that none of the gates before its read turned away has read an answer (60_exceptions.md R159). -/
theorem answered_of_verdict {s : State} {op : TxOp} (harg : s.verdict op ≠ .invalidArgument)
    (hpres : s.verdict op ≠ .transportUnavailable) (hwrite : s.verdict op ≠ .transportWriteIncomplete) :
    ∃ r f, s.request op = some r ∧ s.link.present = true ∧ r.frame s.devaddr = some f
      ∧ s.link.nextCount = f.length := by
  rcases transact_cases s op with hr | ⟨r, hr, hp⟩ | ⟨r, f, hr, hp, hf, hn⟩ | hanswered
  · exact absurd (verdict_invalid hr) harg
  · exact absurd (verdict_absent hr hp) hpres
  · exact absurd (verdict_incomplete hr hp hf hn) hwrite
  · exact hanswered

/-- Settles O46: the one read drops the expected length from the bytes held, and the next takes from their front. -/
theorem leftoverBytesComeFirstNextTime : Obligations.LeftoverBytesComeFirstNextTime := by
  intro s op len _ harg hpres hwrite left
  obtain ⟨r, f, hr, hp, hf, hn⟩ := answered_of_verdict harg hpres hwrite
  have hheld : (s.transact op).link.held = left := by
    rw [transact_answered_link hr hp hf hn, answered_held hr hf, ← lenOf_eq hr]
  exact ⟨hheld, hheld ▸ Link.answerTo_take_held _ len⟩

/-! ### The reset event -/

theorem step_of_reset {s : State} {rest : List Turn} (h : s.port = .reset :: rest) :
    step s = .next (State.resetEvent { s with port := rest }) := by
  simp only [step, h]

/-- No memory byte counts as written after the reset event (log entry 4). -/
theorem resetEvent_byteAt (s : State) (sp : Space) (a : Nat) :
    s.resetEvent.byteAt sp a = Config.unwrittenByte (s.epoch + 1) sp a := by
  cases sp <;> rfl

/-- Settles O60: the step is the reset event, whatever phase stands in SEQ. -/
theorem resetEventReinitialisesTheBlock : Obligations.ResetEventReinitialisesTheBlock := by
  intro s rest hport
  exact ⟨_, step_of_reset hport, rfl, rfl, rfl, rfl, rfl, rfl, rfl, rfl, rfl, rfl, rfl, resetEvent_byteAt _⟩

end Sys2Proof.Machine
